-- ==== Sys2Proof/Word.lean ====
section
/-! DEFINITION. The two word types of the block: 8-bit bytes and 32-bit words (00_scope R7, 10_state R23). -/

namespace Sys2Proof

/-- A byte is 8 bits (R7). -/
abbrev Byte := BitVec 8

/-- A word is 32 bits; every register of the window is one (R7, R23). -/
abbrev Word := BitVec 32

end Sys2Proof
end

