-- ==== Sys2Proof/Syntax.lean ====
section
/-! DEFINITION. The syntax of the hardware, whole: the sixteen commands (30_encoding R84), the names of the registers
(10_state R23), the accesses a host can make and the level changes of the reset input (20_memory R62 to R64, 70_reset R240),
and the host statements of 30_encoding R88 to R90. -/

namespace Sys2Proof

/-- The sixteen commands, in the order of the opcode table (R84). `KBYTE`, `BCHAR` and `MBYTE` carry IMM8 (R81); no other
command has an operand in its word (R82, R83). -/
inductive Instr where
  | nop
  | srst
  | eclr
  | kbegin
  | kbyte (b : Byte)
  | kword
  | kend
  | bbegin
  | bchar (c : Byte)
  | bword
  | bend
  | hstart
  | mbyte (b : Byte)
  | mword
  | mctr
  | hfinish
deriving DecidableEq, Repr

/-- The sixteen mnemonics (R84), as a command statement names them (R89). -/
inductive Mnemonic where
  | NOP | SRST | ECLR
  | KBEGIN | KBYTE | KWORD | KEND
  | BBEGIN | BCHAR | BWORD | BEND
  | HSTART | MBYTE | MWORD | MCTR | HFINISH
deriving DecidableEq, Repr

/-- The named registers of the window (R23). -/
inductive Reg where
  | ID | CTRL | STATUS | CMD | DATA0 | DATA1 | KLEN | MLEN
  | DIGEST0 | DIGEST1 | DIGEST2 | DIGEST3 | DIGEST4
deriving DecidableEq, Repr

/-- What the outside world can do to the block, one step each. -/
inductive Input where
  /-- `MemRead(addr, bytes)` by the host (R62, R64). -/
  | read (addr bytes : Nat)
  /-- `MemWrite(addr, bytes, v)` by the host (R63, R64). -/
  | write (addr bytes : Nat) (v : Word)
  /-- `POLL`: read STATUS until BUSY = 0 (R90). -/
  | poll
  /-- The platform asserts the reset input (R240). -/
  | assertReset
  /-- The platform releases the reset input (R240). -/
  | releaseReset
deriving DecidableEq, Repr

/-- Host statements and pseudo-instructions (R88, R89, R90). Values are as written, before any range check. -/
inductive Stmt where
  | wr (r : Reg) (v : Nat)
  | rd (r : Reg)
  | cmd (m : Mnemonic) (imm : Option Nat)
  | poll
  | bstr (cs : List Char)
  | kstr (bs : List Nat)
  | ldctr (v : Nat)
  | rddig
  | check
deriving DecidableEq, Repr

end Sys2Proof
end

