-- ==== Sys2Proof/Decode.lean ====
section
/-! DEFINITION. Command words (30_encoding): the fields of format C (R80), the opcode map (R84), the total decoder that
rejects by name (R85, R86), and after it the encoder, from the same map. -/

namespace Sys2Proof

/-- OPC, bits [31:24] (R80). -/
def opcField (w : Word) : Byte := w.extractLsb' 24 8

/-- RSV, bits [23:8] (R80). -/
def rsvField (w : Word) : BitVec 16 := w.extractLsb' 8 16

/-- IMM8, bits [7:0] (R80). -/
def immField (w : Word) : Byte := w.extractLsb' 0 8

/-- The opcode of each mnemonic (R84). -/
def Mnemonic.opcode : Mnemonic → Byte
  | .NOP => 0x00
  | .SRST => 0x01
  | .ECLR => 0x02
  | .KBEGIN => 0x10
  | .KBYTE => 0x11
  | .KWORD => 0x12
  | .KEND => 0x13
  | .BBEGIN => 0x20
  | .BCHAR => 0x21
  | .BWORD => 0x22
  | .BEND => 0x23
  | .HSTART => 0x30
  | .MBYTE => 0x31
  | .MWORD => 0x32
  | .MCTR => 0x33
  | .HFINISH => 0x34

/-- Does the opcode take IMM8 (R80: KBYTE, BCHAR and MBYTE only)? -/
def Mnemonic.takesImm : Mnemonic → Bool
  | .KBYTE | .BCHAR | .MBYTE => true
  | .NOP | .SRST | .ECLR | .KBEGIN | .KWORD | .KEND | .BBEGIN | .BWORD | .BEND
  | .HSTART | .MWORD | .MCTR | .HFINISH => false

/-- The mnemonic of a command. -/
def Instr.mnemonic : Instr → Mnemonic
  | .nop => .NOP
  | .srst => .SRST
  | .eclr => .ECLR
  | .kbegin => .KBEGIN
  | .kbyte _ => .KBYTE
  | .kword => .KWORD
  | .kend => .KEND
  | .bbegin => .BBEGIN
  | .bchar _ => .BCHAR
  | .bword => .BWORD
  | .bend => .BEND
  | .hstart => .HSTART
  | .mbyte _ => .MBYTE
  | .mword => .MWORD
  | .mctr => .MCTR
  | .hfinish => .HFINISH

/-- The IMM8 field of a command: its byte operand, or 0x00 (R80, R81). -/
def Instr.imm8 : Instr → Byte
  | .kbyte b => b
  | .bchar c => c
  | .mbyte b => b
  | .nop | .srst | .eclr | .kbegin | .kword | .kend | .bbegin | .bword | .bend
  | .hstart | .mword | .mctr | .hfinish => 0x00

/-- The opcode map read the other way; every other opcode is reserved (R84, R86). -/
def mnemonicOf (opc : Byte) : Option Mnemonic :=
  match opc.toNat with
  | 0x00 => some .NOP
  | 0x01 => some .SRST
  | 0x02 => some .ECLR
  | 0x10 => some .KBEGIN
  | 0x11 => some .KBYTE
  | 0x12 => some .KWORD
  | 0x13 => some .KEND
  | 0x20 => some .BBEGIN
  | 0x21 => some .BCHAR
  | 0x22 => some .BWORD
  | 0x23 => some .BEND
  | 0x30 => some .HSTART
  | 0x31 => some .MBYTE
  | 0x32 => some .MWORD
  | 0x33 => some .MCTR
  | 0x34 => some .HFINISH
  | _ => none

/-- The command of a mnemonic; `imm` is used where the command takes IMM8 (R81). -/
def Mnemonic.instr (m : Mnemonic) (imm : Byte) : Instr :=
  match m with
  | .NOP => .nop
  | .SRST => .srst
  | .ECLR => .eclr
  | .KBEGIN => .kbegin
  | .KBYTE => .kbyte imm
  | .KWORD => .kword
  | .KEND => .kend
  | .BBEGIN => .bbegin
  | .BCHAR => .bchar imm
  | .BWORD => .bword
  | .BEND => .bend
  | .HSTART => .hstart
  | .MBYTE => .mbyte imm
  | .MWORD => .mword
  | .MCTR => .mctr
  | .HFINISH => .hfinish

/-- Why a word is illegal (R85, R86). The names are the model's; all three have one effect, ILLEGAL (log 16). -/
inductive Illegal where
  /-- The opcode is none of the sixteen. -/
  | reservedOpcode
  /-- RSV is not 0x0000. -/
  | nonzeroRsv
  /-- IMM8 is not 0x00 in a command that takes none. -/
  | nonzeroImm
deriving DecidableEq, Repr

/-- What the decoder says of a word: one command, or illegal and why. -/
inductive Decoded where
  | command (i : Instr)
  | illegal (why : Illegal)
deriving DecidableEq, Repr

/-- The decoder, total on all 32-bit words (R85). -/
def decode (w : Word) : Decoded :=
  match mnemonicOf (opcField w) with
  | none => .illegal .reservedOpcode
  | some m =>
    if rsvField w ≠ 0 then .illegal .nonzeroRsv
    else if m.takesImm = false ∧ immField w ≠ 0 then .illegal .nonzeroImm
    else .command (m.instr (immField w))

/-- The sixteen opcodes of R84, as a list. -/
def opcodes : List Byte :=
  [0x00, 0x01, 0x02] ++ [0x10, 0x11, 0x12, 0x13] ++ [0x20, 0x21, 0x22, 0x23] ++ [0x30, 0x31, 0x32, 0x33, 0x34]

/-- *Legal*, in R85's own words, apart from the decoder. -/
def legal (w : Word) : Bool :=
  opcodes.contains (opcField w) && rsvField w == 0 &&
    (immField w == 0 || opcField w == 0x11 || opcField w == 0x21 || opcField w == 0x31)

/-- `enc(OP, imm) = OPC(OP) << 24 | imm` (R84, R89). -/
def encodeParts (m : Mnemonic) (imm : Byte) : Word :=
  (m.opcode.setWidth 32 <<< 24) ||| imm.setWidth 32

/-- The encoder: the one word of a command (R80, R87). -/
def encode (i : Instr) : Word := encodeParts i.mnemonic i.imm8

/-- The opcode table's mask of a command: the bits that R84 fixes. -/
def Mnemonic.mask (m : Mnemonic) : Word := if m.takesImm then 0xFFFFFF00 else 0xFFFFFFFF

/-- The word whose lowest `nbits` bits are those of `w`, all higher bits 0. -/
def tableWord (nbits w : Nat) : Word := BitVec.ofNat 32 (w % 2 ^ nbits)

/-- The instruction the decoder reads from a word numbered as the opcode table numbers it. Commands are 32-bit values
written to CMD (R80), and only values, no byte lanes, matter (20_memory R72). -/
def decodeTableWord (nbits w : Nat) : Option Instr :=
  match decode (tableWord nbits w) with
  | .command i => some i
  | .illegal _ => none

end Sys2Proof
end

