-- ==== Sys2Proof/Config.lean ====
section
/-! DEFINITION. The block's parameters (00_scope R5) and the model's free values. A constant without a body has no value
any proof can see: a claim about it holds whatever it is. -/

namespace Sys2Proof.Config

/-- `MAX_KEY_BYTES` (R5, 42_key R142). -/
abbrev maxKeyBytes : Nat := 2 ^ 61 - 1

/-- `MAX_MSG_BYTES` (R5, 44_hmac R198). -/
abbrev maxMsgBytes : Nat := 2 ^ 61 - 65

/-- The register window is 64 bytes (R5, R60). -/
abbrev windowBytes : Nat := 64

/-- OPEN parameter behind `BASE`: which 64-byte slot of the platform's address space the window takes (R5, R60; log 3). -/
opaque baseSlot : Nat

/-- `BASE`, a multiple of 0x40 (R60). -/
def base : Nat := windowBytes * baseSlot

/-- OPEN parameter behind `LAT` (R5, R254): by how many host steps the completion of a command is delayed. It may depend on
the command word and differ from one acceptance to the next (the second argument is the count of free values; log 1). -/
opaque delay : Word → Nat → Nat

/-- Free bytes: draw `n`, byte `i` (contents that the spec leaves unspecified, 93 part 1; log 5). -/
opaque freeByte : Nat → Nat → Byte

/-- Free words: draw `n`, word `i` (log 5). -/
opaque freeWord : Nat → Nat → Word

/-- Free counts (log 5). -/
opaque freeNat : Nat → Nat

end Sys2Proof.Config
end

