-- ==== Sys2Proof/Machine/State.lean ====
section
/-! DEFINITION. The whole state of the block (10_state, sections 2 and 3), of the host's and the platform's inputs, and its
value right after reset (10_state R44). Plain data throughout. -/

namespace Sys2Proof.Machine

/-- Base32 length modes, CTRL.B32MODE 0, 1 and 2; the field never holds 3 (R25, R26). -/
inductive B32Mode where
  | strict | legacy | rfc
deriving DecidableEq, Repr

/-- The fields of CTRL that are stored; bits [31:3] read 0 (R25). -/
structure Ctrl where
  mode  : B32Mode
  strip : Bool
deriving DecidableEq, Repr

/-- The key-staging phase KSPH (R37). -/
inductive Phase where
  | idle | raw | b32 | failed
deriving DecidableEq, Repr

/-- The error codes (60_exceptions R211); no other value is ever written to ERRCODE. -/
inductive ErrCode where
  | none | illegal | busy | sequence | invalidChar | fractional | empty | length
deriving DecidableEq, Repr

/-- Five 32-bit words: a SHA-1 chaining value, and the digest registers (R34, R35). -/
structure Hash where
  h0 : Word
  h1 : Word
  h2 : Word
  h3 : Word
  h4 : Word
deriving DecidableEq, Repr

/-- A SHA-1 context (R34): chaining words, buffered bytes, number of bytes absorbed. -/
structure Sha1Ctx where
  h   : Hash
  buf : List Byte
  cnt : Nat
deriving DecidableEq, Repr

/-- The copies of CTRL, DATA0 and DATA1 that a command uses (70_reset R246). -/
structure Latch where
  ctrl  : Ctrl
  data0 : Word
  data1 : Word
deriving DecidableEq, Repr

/-- PEND: an accepted command in flight (R41), and by how many host steps its completion is still delayed (R254; log 1). -/
structure Pending where
  word  : Word
  latch : Latch
  delay : Nat
deriving DecidableEq, Repr

/-- The state. -/
structure State where
  /-- CTRL (R25). -/
  ctrl : Ctrl
  /-- DATA0 (R29). -/
  data0 : Word
  /-- DATA1 (R29). -/
  data1 : Word
  /-- PEND (R41); BUSY is its presence (log 10). -/
  pend : Option Pending
  /-- ERR (R36). -/
  err : Bool
  /-- ERRCODE (R36). -/
  errCode : ErrCode
  /-- ERROPC (R36). -/
  errOpc : Byte
  /-- KSPH (R37). -/
  ksph : Phase
  /-- KRAW, the first 64 staging bytes (R37). -/
  kraw : List Byte
  /-- KCNT, the number of staging bytes (R37). -/
  kcnt : Nat
  /-- KCTX, the running hash of the staging bytes once there are more than 64 (R37). -/
  kctx : Sha1Ctx
  /-- ACC, the bit accumulator, at most 12 bits inside a command (R37, 41_base32 R123; log 12). -/
  acc : BitVec 12
  /-- NBITS, the number of bits in ACC (R37). -/
  nbits : Nat
  /-- KVALID (R39). -/
  kvalid : Bool
  /-- KP, the expanded key, 64 bytes (R39). -/
  kp : List Byte
  /-- KLEN (R30). -/
  klen : Word
  /-- HACT (R40). -/
  hact : Bool
  /-- ICTX, the inner hash (R40). -/
  ictx : Sha1Ctx
  /-- MCNT, the number of message bytes; MLEN is its low 32 bits (R31, R40). -/
  mcnt : Nat
  /-- DVALID (R35). -/
  dvalid : Bool
  /-- DIG[0..4], the digest registers (R35). -/
  dig : Hash
  /-- The level of the reset input (70_reset R240; log 9). -/
  inReset : Bool
  /-- What the host and the platform will do next, in order (R21; log 2). -/
  inputs : List Input
  /-- What the host's reads returned, (offset, value), oldest first (20_memory R62; log 13). -/
  reads : List (Nat × Word)
  /-- The model's own field: how many free values were drawn (log 6). -/
  freeCount : Nat
deriving DecidableEq, Repr

/-- BUSY (R41): a command is accepted and not yet completed. -/
def State.busy (s : State) : Bool := s.pend.isSome

/-- The machine stops with a fault. No command does: the block has no traps and no fatal error (60_exceptions R210). -/
inductive Fault where
  /-- Raised by a host access that is not a 4-byte access at a 4-byte-aligned address inside the window. R64: its behaviour
  is not defined, the host is stuck. SAFE: the model stops where the hardware may go on (log 7). -/
  | hostStuck
deriving DecidableEq, Repr

/-- The model gives no meaning. -/
inductive Refusal where
  /-- Raised by `exec` for an instruction whose meaning is not written yet. SAFE. -/
  | notModelled (mnemonic : String)
  /-- Raised by a host access outside [BASE, BASE + 0x40): R61, no rule of the spec applies to it. SAFE (log 8). -/
  | outsideWindow
  /-- Raised by a host access while the reset input is asserted: R240, such accesses are refused. SAFE (log 9). -/
  | accessInReset
deriving DecidableEq, Repr

/-- A SHA-1 context before any byte: what KCTX and ICTX hold at reset, where the spec leaves them unspecified (R44; log 4). -/
def Sha1Ctx.atReset : Sha1Ctx :=
  { h := ⟨0x67452301, 0xEFCDAB89, 0x98BADCFE, 0x10325476, 0xC3D2E1F0⟩, buf := [], cnt := 0 }

/-- The machine right after reset (R44). KP, KCTX and ICTX have no reset value in the spec: the model's choice, log 4. -/
def State.reset : State :=
  { ctrl := { mode := .strict, strip := true }
    data0 := 0, data1 := 0
    pend := none
    err := false, errCode := .none, errOpc := 0
    ksph := .idle, kraw := [], kcnt := 0, kctx := .atReset, acc := 0, nbits := 0
    kvalid := false, kp := List.replicate 64 0, klen := 0
    hact := false, ictx := .atReset, mcnt := 0
    dvalid := false, dig := ⟨0, 0, 0, 0, 0⟩
    inReset := false, inputs := [], reads := [], freeCount := 0 }

end Sys2Proof.Machine
end

