-- ==== Sys2Proof/Machine/Flags.lean ====
section
/-! DEFINITION. The words that software sees as flags and fields: CTRL (10_state R25, R26) and STATUS (R27, R43), with the
codes of their fields. -/

namespace Sys2Proof.Machine

/-- B32MODE as its two bits (R25). -/
def B32Mode.bits : B32Mode → BitVec 2
  | .strict => 0
  | .legacy => 1
  | .rfc => 2

/-- CTRL as a word; bits [31:3] read as zero (R25). -/
def Ctrl.word (c : Ctrl) : Word := 0#29 ++ BitVec.ofBool c.strip ++ c.mode.bits

/-- The CTRL write rule (R26): B32MODE 3 is reserved and leaves the field unchanged. -/
def Ctrl.write (c : Ctrl) (v : Word) : Ctrl :=
  { strip := v.getLsbD 2
    mode :=
      match (v.extractLsb' 0 2).toNat with
      | 0 => .strict
      | 1 => .legacy
      | 2 => .rfc
      | _ => c.mode }

/-- KSPH as its two bits (R27, R37). -/
def Phase.bits : Phase → BitVec 2
  | .idle => 0
  | .raw => 1
  | .b32 => 2
  | .failed => 3

/-- ERRCODE as its eight bits (60_exceptions R211). -/
def ErrCode.byte : ErrCode → Byte
  | .none => 0x00
  | .illegal => 0x01
  | .busy => 0x02
  | .sequence => 0x03
  | .invalidChar => 0x10
  | .fractional => 0x11
  | .empty => 0x12
  | .length => 0x20

/-- KLONG: the staging key has more than 64 bytes (R27, R42). -/
def State.klong (s : State) : Bool := decide (64 < s.kcnt)

/-- STATUS (R27), most significant field first: ERROPC, ERRCODE, reserved, NBITS, KLONG, HACT, KSPH, ERR, DVALID, KVALID,
BUSY. -/
def State.statusWord (s : State) : Word :=
  s.errOpc ++ s.errCode.byte ++ 0#5 ++ BitVec.ofNat 3 s.nbits ++ BitVec.ofBool s.klong ++ BitVec.ofBool s.hact ++
    s.ksph.bits ++ BitVec.ofBool s.err ++ BitVec.ofBool s.dvalid ++ BitVec.ofBool s.kvalid ++ BitVec.ofBool s.busy

/-- MLEN, the low 32 bits of MCNT (R31). -/
def State.mlen (s : State) : Word := BitVec.ofNat 32 s.mcnt

end Sys2Proof.Machine
end

