-- ==== Sys2Proof/Machine/Bits.lean ====
section
/-! DEFINITION. Bit fields and byte order (00_scope R7, 20_memory R73): big-endian words and counts, rotation. -/

namespace Sys2Proof.Machine

/-- `BE32(b0, b1, b2, b3)` (R7). -/
def be32 (b0 b1 b2 b3 : Byte) : Word :=
  (b0.setWidth 32 <<< 24) ||| (b1.setWidth 32 <<< 16) ||| (b2.setWidth 32 <<< 8) ||| b3.setWidth 32

/-- `BE32⁻¹(w)`: the four bytes, most significant first (R7). -/
def be32Bytes (w : Word) : List Byte :=
  [w.extractLsb' 24 8, w.extractLsb' 16 8, w.extractLsb' 8 8, w.extractLsb' 0 8]

/-- `BE64(n)`: the eight bytes of a 64-bit value, most significant first (43_sha1 R170). -/
def be64Bytes (n : Nat) : List Byte :=
  be32Bytes (BitVec.ofNat 32 (n / 2 ^ 32)) ++ be32Bytes (BitVec.ofNat 32 n)

/-- `ROTL_n(x)` for 0 < n < 32 (R7). -/
def rotl (n : Nat) (x : Word) : Word := (x <<< n) ||| (x >>> (32 - n))

/-- `zeros(n)` (R7). -/
def zeros (n : Nat) : List Byte := List.replicate n 0x00#8

/-- The bytes of a stream read as big-endian words, four at a time (43_sha1 R164). -/
def be32Words : List Byte → List Word
  | b0 :: b1 :: b2 :: b3 :: rest => be32 b0 b1 b2 b3 :: be32Words rest
  | _ => []

end Sys2Proof.Machine
end

