-- ==== Sys2Proof/Machine/Operands.lean ====
section
/-! DEFINITION. The operand forms of the commands (30_encoding R82; 70_reset R246): the latched copies of CTRL, DATA0 and
DATA1, as bytes most significant first. IMM8 is a field of the command itself (R81). -/

namespace Sys2Proof.Machine

/-- The live registers, as acceptance copies them (R246). -/
def State.liveLatch (s : State) : Latch := { ctrl := s.ctrl, data0 := s.data0, data1 := s.data1 }

/-- The copies a command uses: those of PEND (R246). With no command pending, which no step of the machine ever runs, the
live registers: what acceptance would copy now (log 11). -/
def State.latched (s : State) : Latch :=
  match s.pend with
  | some p => p.latch
  | none => s.liveLatch

/-- `BE32⁻¹(DATA0)` of the latched DATA0: the operand of KWORD, BWORD and MWORD (R82). -/
def State.data0Bytes (s : State) : List Byte := be32Bytes s.latched.data0

/-- `BE32⁻¹(DATA1) || BE32⁻¹(DATA0)` of the latched copies: the operand of MCTR (R82). -/
def State.counterBytes (s : State) : List Byte := be32Bytes s.latched.data1 ++ be32Bytes s.latched.data0

end Sys2Proof.Machine
end

