-- ==== Sys2Proof/Machine/Sha1.lean ====
section
/-! DEFINITION. The SHA-1 engine (43_sha1): initial value, absorption, message schedule, rounds, compression, padding and
final digest. It records no error and sets no flag (R174). -/

namespace Sys2Proof.Machine

/-- The initial chaining value (R161). -/
def sha1IV : Hash := ⟨0x67452301, 0xEFCDAB89, 0x98BADCFE, 0x10325476, 0xC3D2E1F0⟩

/-- `Sha1Init()` (R162). -/
def Sha1Ctx.init : Sha1Ctx := { h := sha1IV, buf := [], cnt := 0 }

/-- `W[t]` from the words before it, given newest first: W[t-1] is at 0 (R165). -/
def scheduleWord (ws : List Word) : Word :=
  rotl 1 (ws.getD 2 0 ^^^ ws.getD 7 0 ^^^ ws.getD 13 0 ^^^ ws.getD 15 0)

/-- `n` more schedule words on top of `ws`, newest first. -/
def scheduleMore : Nat → List Word → List Word
  | 0, ws => ws
  | n + 1, ws => scheduleMore n (scheduleWord ws :: ws)

/-- The message schedule W[0..79] of a block's words M[0..15] (R165). -/
def schedule (m : List Word) : List Word := (scheduleMore 64 m.reverse).reverse

/-- `Ch` (R166). -/
def ch (x y z : Word) : Word := (x &&& y) ||| (~~~x &&& z)

/-- `Parity` (R166). -/
def parity (x y z : Word) : Word := x ^^^ y ^^^ z

/-- `Maj` (R166). -/
def maj (x y z : Word) : Word := (x &&& y) ||| (x &&& z) ||| (y &&& z)

/-- `f_t` (R166). -/
def roundFun (t : Nat) (x y z : Word) : Word :=
  if t < 20 then ch x y z else if t < 40 then parity x y z else if t < 60 then maj x y z else parity x y z

/-- `K_t` (R167). -/
def roundConst (t : Nat) : Word :=
  if t < 20 then 0x5A827999 else if t < 40 then 0x6ED9EBA1 else if t < 60 then 0x8F1BBCDC else 0xCA62C1D6

/-- Round `t` on the working words (a, b, c, d, e), held in h0 to h4 (R168). -/
def sha1Round (t : Nat) (w : Word) (v : Hash) : Hash :=
  { h0 := rotl 5 v.h0 + roundFun t v.h1 v.h2 v.h3 + v.h4 + roundConst t + w
    h1 := v.h0
    h2 := rotl 30 v.h1
    h3 := v.h2
    h4 := v.h3 }

/-- Rounds `t`, `t + 1`, ... over the schedule words that are left (R169). -/
def sha1Rounds : Nat → List Word → Hash → Hash
  | _, [], v => v
  | t, w :: ws, v => sha1Rounds (t + 1) ws (sha1Round t w v)

/-- The feed-forward addition, modulo 2^32 (R169). -/
def Hash.add (x y : Hash) : Hash :=
  ⟨x.h0 + y.h0, x.h1 + y.h1, x.h2 + y.h2, x.h3 + y.h3, x.h4 + y.h4⟩

/-- `Compress(H, X)` of a 64-byte block (R169). -/
def compress (h : Hash) (x : List Byte) : Hash :=
  h.add (sha1Rounds 0 (schedule (be32Words x)) h)

/-- `Sha1Absorb(C, b)` (R163). -/
def Sha1Ctx.absorb (c : Sha1Ctx) (b : Byte) : Sha1Ctx :=
  if c.buf.length + 1 = 64 then { h := compress c.h (c.buf ++ [b]), buf := [], cnt := c.cnt + 1 }
  else { h := c.h, buf := c.buf ++ [b], cnt := c.cnt + 1 }

/-- `Sha1Absorb` of each byte, in order. -/
def Sha1Ctx.absorbAll (c : Sha1Ctx) (bs : List Byte) : Sha1Ctx := bs.foldl Sha1Ctx.absorb c

/-- `Compress` over `n` blocks of 64 bytes, in order (R170). -/
def compressBlocks : Nat → Hash → List Byte → Hash
  | 0, h, _ => h
  | n + 1, h, bs => compressBlocks n (compress h (bs.take 64)) (bs.drop 64)

/-- The number of zero pad bytes, (55 - |BUF|) mod 64, for |BUF| <= 63 (R170). -/
def padZeros (n : Nat) : Nat := (119 - n) % 64

/-- The padded tail of `Sha1Final` (R170). -/
def Sha1Ctx.tail (c : Sha1Ctx) : List Byte :=
  c.buf ++ [0x80#8] ++ zeros (padZeros c.buf.length) ++ be64Bytes (8 * c.cnt)

/-- The final chaining words of `Sha1Final` (R170). -/
def Sha1Ctx.finalHash (c : Sha1Ctx) : Hash := compressBlocks (c.tail.length / 64) c.h c.tail

/-- Five words as twenty bytes, big-endian (R170). -/
def Hash.bytes (h : Hash) : List Byte :=
  be32Bytes h.h0 ++ be32Bytes h.h1 ++ be32Bytes h.h2 ++ be32Bytes h.h3 ++ be32Bytes h.h4

/-- Twenty bytes as five big-endian words (10_state R32). -/
def Hash.ofBytes (d : List Byte) : Hash :=
  { h0 := be32 (d.getD 0 0) (d.getD 1 0) (d.getD 2 0) (d.getD 3 0)
    h1 := be32 (d.getD 4 0) (d.getD 5 0) (d.getD 6 0) (d.getD 7 0)
    h2 := be32 (d.getD 8 0) (d.getD 9 0) (d.getD 10 0) (d.getD 11 0)
    h3 := be32 (d.getD 12 0) (d.getD 13 0) (d.getD 14 0) (d.getD 15 0)
    h4 := be32 (d.getD 16 0) (d.getD 17 0) (d.getD 18 0) (d.getD 19 0) }

/-- `Sha1Final(C)`: the 20-byte digest (R170). -/
def Sha1Ctx.final (c : Sha1Ctx) : List Byte := c.finalHash.bytes

/-- `SHA1(m)` (R173). -/
def sha1 (m : List Byte) : List Byte := (Sha1Ctx.init.absorbAll m).final

end Sys2Proof.Machine
end

