-- ==== Sys2Proof/Machine/Ops.lean ====
section
/-! DEFINITION. The named operations the commands share: recording an error (this hardware's way of taking an exception)
and clearing it, the staging key, the commit, the message, and the two resets. -/

namespace Sys2Proof.Machine

/-! ### Free values (93 part 1; log 5) -/

/-- A free SHA-1 context, within the bounds R34 sets for every context. -/
def freeCtx (n : Nat) : Sha1Ctx :=
  let cnt := Config.freeNat n % 2 ^ 61
  { h := ⟨Config.freeWord n 0, Config.freeWord n 1, Config.freeWord n 2, Config.freeWord n 3, Config.freeWord n 4⟩
    buf := (List.range (cnt % 64)).map (Config.freeByte n)
    cnt := cnt }

/-- A free 64-byte KP (R39). -/
def freeKp (n : Nat) : List Byte := (List.range 64).map (Config.freeByte n)

/-! ### Errors (60_exceptions) -/

/-- `RecordError(code, opc)` (R214): the first error's code and opcode are kept, ERR is set. -/
def recordError (code : ErrCode) (opc : Byte) (s : State) : State :=
  if s.err then { s with err := true }
  else { s with errCode := code, errOpc := opc, err := true }

/-- The return from an error (R218, 40_control R102): the record is cleared, nothing else. -/
def clearError (s : State) : State := { s with err := false, errCode := .none, errOpc := 0x00#8 }

/-! ### The staging key (10_state R37, 42_key) -/

/-- `ClearStaging` (R37); KCTX becomes a free value ("don't-care"; log 5). -/
def clearStaging (s : State) : State :=
  { s with
    kraw := [], kcnt := 0, kctx := freeCtx s.freeCount, acc := 0, nbits := 0
    freeCount := s.freeCount + 1 }

/-- A session ends without a commit: KSPH <- IDLE; ClearStaging (R140, 41_base32 R129, 42_key R150). -/
def endSession (s : State) : State := clearStaging { s with ksph := .idle }

/-- `KeyPush(b, opc)` (R141, R142). -/
def keyPush (b opc : Byte) (s : State) : State :=
  if s.kcnt = Config.maxKeyBytes then { recordError .length opc s with ksph := .failed }
  else if s.kcnt < 64 then { s with kraw := s.kraw ++ [b], kcnt := s.kcnt + 1 }
  else if s.kcnt = 64 then
    { s with kctx := (Sha1Ctx.init.absorbAll s.kraw).absorb b, kcnt := s.kcnt + 1 }
  else { s with kctx := s.kctx.absorb b, kcnt := s.kcnt + 1 }

/-- `KeyPush` of each byte, in order (42_key R149). -/
def keyPushAll (bs : List Byte) (opc : Byte) (s : State) : State := bs.foldl (fun t b => keyPush b opc t) s

/-- `Expand(S)` of a whole key S (R143). -/
def expandKey (key : List Byte) : List Byte :=
  if key.length ≤ 64 then key ++ zeros (64 - key.length) else sha1 key ++ zeros 44

/-- K' on the concrete staging state (R143). -/
def State.expandStaged (s : State) : List Byte :=
  if s.kcnt ≤ 64 then s.kraw ++ zeros (64 - s.kcnt) else s.kctx.final ++ zeros 44

/-! ### The HMAC computation -/

/-- HACT <- 0: the computation is closed. ICTX is unspecified while HACT = 0 (10_state R40, R44; 93 part 1): a free value,
log 5. -/
def closeHmac (s : State) : State :=
  { s with hact := false, ictx := freeCtx s.freeCount, freeCount := s.freeCount + 1 }

/-- `Commit()` (R146). -/
def commit (s : State) : State :=
  endSession (closeHmac { s with kp := s.expandStaged, kvalid := true, klen := BitVec.ofNat 32 s.kcnt })

/-- `MsgPush(bs, opc)` (44_hmac R198): all bytes or none. -/
def msgPush (bs : List Byte) (opc : Byte) (s : State) : State :=
  if Config.maxMsgBytes < s.mcnt + bs.length then closeHmac (recordError .length opc s)
  else { s with ictx := s.ictx.absorbAll bs, mcnt := s.mcnt + bs.length }

/-! ### Resets -/

/-- What SRST does (40_control R101): all but ID, CTRL, DATA0 and DATA1. KP, ICTX and KCTX become free values (log 5). -/
def softReset (s : State) : State :=
  let t := closeHmac (endSession (clearError s))
  { t with
    kvalid := false, kp := freeKp t.freeCount, klen := 0
    mcnt := 0
    dvalid := false, dig := ⟨0, 0, 0, 0, 0⟩
    freeCount := t.freeCount + 1 }

/-- Every piece of the block's state takes the value of 10_state R44 (70_reset R240); a command in flight is discarded. What
R44 leaves unspecified becomes a free value (log 5). The host's own state (inputs, reads) is not the block's. -/
def resetBlock (s : State) : State :=
  { State.reset with
    kctx := freeCtx s.freeCount, ictx := freeCtx (s.freeCount + 1), kp := freeKp (s.freeCount + 2)
    inReset := s.inReset, inputs := s.inputs, reads := s.reads, freeCount := s.freeCount + 3 }

/-- The completion of a command clears PEND and BUSY (70_reset R247). -/
def retire (s : State) : State := { s with pend := none }

end Sys2Proof.Machine
end

