-- ==== Sys2Proof/Machine/Base32.lean ====
section
/-! DEFINITION. The Base32 decoder (41_base32): lookup table, 5-to-8 unpacking, length rule and commands. -/

namespace Sys2Proof.Machine

/-- What a character code stands for (R120). -/
inductive CharClass where
  | value (v : BitVec 5)
  | skip
  | bad
deriving DecidableEq, Repr

/-- `B32LUT` (R120). -/
def b32Lut (c : Byte) : CharClass :=
  let n := c.toNat
  if 0x41 ≤ n ∧ n ≤ 0x5A then .value (BitVec.ofNat 5 (n - 0x41))
  else if 0x61 ≤ n ∧ n ≤ 0x7A then .value (BitVec.ofNat 5 (n - 0x61))
  else if 0x32 ≤ n ∧ n ≤ 0x37 then .value (BitVec.ofNat 5 (n - 0x32 + 26))
  else if n = 0x09 ∨ n = 0x0A ∨ n = 0x0D ∨ n = 0x20 ∨ n = 0x3D then .skip
  else .bad

/-- `Class(c)`: with STRIP = 0 a SKIP code is BAD (R121). -/
def charClass (strip : Bool) (c : Byte) : CharClass :=
  match b32Lut c with
  | .skip => if strip then .skip else .bad
  | k => k

/-- The unpacking of one 5-bit value (R123). -/
def b32Value (v : BitVec 5) (opc : Byte) (s : State) : State :=
  let acc := (s.acc <<< 5) ||| v.setWidth 12
  let nbits := s.nbits + 5
  if 8 ≤ nbits then
    keyPush ((acc >>> (nbits - 8)).setWidth 8) opc
      { s with nbits := nbits - 8, acc := acc &&& BitVec.ofNat 12 (2 ^ (nbits - 8) - 1) }
  else { s with acc := acc, nbits := nbits }

/-- `B32Char(c, opc)` (R123), with the STRIP bit the command latched (R121). -/
def b32Char (strip : Bool) (c opc : Byte) (s : State) : State :=
  match charClass strip c with
  | .skip => s
  | .bad => { recordError .invalidChar opc s with ksph := .failed }
  | .value v => b32Value v opc s

/-- The characters of BWORD, in order: stop once the session has failed, 0x00 is a filler (R127). -/
def b32Chars (strip : Bool) (opc : Byte) : List Byte → State → State
  | [], s => s
  | c :: cs, s =>
    if s.ksph = .failed then s
    else if c = 0x00#8 then b32Chars strip opc cs s
    else b32Chars strip opc cs (b32Char strip c opc s)

/-- `LenOK(mode, NBITS)` (R128). -/
def lenOk (mode : B32Mode) (nbits : Nat) : Bool :=
  match mode with
  | .strict => nbits == 0
  | .legacy => decide (nbits < 4)
  | .rfc => true

/-- BBEGIN (R125): any session is discarded, a Base32 one begins. -/
def execBbegin (s : State) : Host.Outcome State Fault Refusal :=
  .next { clearStaging s with ksph := .b32 }

/-- BCHAR c (R126). -/
def execBchar (c : Byte) (s : State) : Host.Outcome State Fault Refusal :=
  .next <|
    if s.ksph = .failed then s
    else if s.ksph ≠ .b32 then recordError .sequence 0x21#8 s
    else b32Char s.latched.ctrl.strip c 0x21#8 s

/-- BWORD (R127). -/
def execBword (s : State) : Host.Outcome State Fault Refusal :=
  .next <|
    if s.ksph = .failed then s
    else if s.ksph ≠ .b32 then recordError .sequence 0x22#8 s
    else b32Chars s.latched.ctrl.strip 0x22#8 s.data0Bytes s

/-- BEND (R129): FRACTIONAL is checked before EMPTY. -/
def execBend (s : State) : Host.Outcome State Fault Refusal :=
  .next <|
    if s.ksph = .failed then endSession s
    else if s.ksph ≠ .b32 then recordError .sequence 0x23#8 s
    else if lenOk s.latched.ctrl.mode s.nbits = false then endSession (recordError .fractional 0x23#8 s)
    else if s.kcnt = 0 then endSession (recordError .empty 0x23#8 s)
    else commit s

end Sys2Proof.Machine
end

