-- ==== Sys2Proof/Machine/Control.lean ====
section
/-! DEFINITION. The control commands (40_control). -/

namespace Sys2Proof.Machine

/-- NOP (R100): no effect. -/
def execNop (s : State) : Host.Outcome State Fault Refusal := .next s

/-- SRST (R101). -/
def execSrst (s : State) : Host.Outcome State Fault Refusal := .next (softReset s)

/-- ECLR (R102). -/
def execEclr (s : State) : Host.Outcome State Fault Refusal := .next (clearError s)

end Sys2Proof.Machine
end

