-- ==== Sys2Proof/Machine/Hmac.lean ====
section
/-! DEFINITION. The HMAC engine commands (44_hmac), and the value they compute (R190). -/

namespace Sys2Proof.Machine

/-- `IPAD` (00_scope R11). -/
def ipad : Byte := 0x36#8

/-- `OPAD` (00_scope R11). -/
def opad : Byte := 0x5C#8

/-- `KI`, the inner key block (R191). -/
def innerKey (kp : List Byte) : List Byte := kp.map (· ^^^ ipad)

/-- `KO`, the outer key block (R192). -/
def outerKey (kp : List Byte) : List Byte := kp.map (· ^^^ opad)

/-- `HMAC(S, M)` (R190): the reference value, which no command calls. -/
def hmacSha1 (key msg : List Byte) : List Byte :=
  sha1 (outerKey (expandKey key) ++ sha1 (innerKey (expandKey key) ++ msg))

/-- The outer hash of HFINISH: the 20-byte digest from K' and the inner digest (R197). -/
def outerDigest (kp inner : List Byte) : List Byte :=
  ((Sha1Ctx.init.absorbAll (outerKey kp)).absorbAll inner).final

/-- Publication: DIG and DVALID (R197, 10_state R32). -/
def publish (d : List Byte) (s : State) : State := { s with dig := Hash.ofBytes d, dvalid := true }

/-- HSTART (R193). -/
def execHstart (s : State) : Host.Outcome State Fault Refusal :=
  .next <|
    if s.kvalid = false then recordError .sequence 0x30#8 s
    else { s with ictx := Sha1Ctx.init.absorbAll (innerKey s.kp), mcnt := 0, hact := true }

/-- MBYTE b (R194). -/
def execMbyte (b : Byte) (s : State) : Host.Outcome State Fault Refusal :=
  .next <| if s.hact = false then recordError .sequence 0x31#8 s else msgPush [b] 0x31#8 s

/-- MWORD (R195). -/
def execMword (s : State) : Host.Outcome State Fault Refusal :=
  .next <| if s.hact = false then recordError .sequence 0x32#8 s else msgPush s.data0Bytes 0x32#8 s

/-- MCTR (R196). -/
def execMctr (s : State) : Host.Outcome State Fault Refusal :=
  .next <| if s.hact = false then recordError .sequence 0x33#8 s else msgPush s.counterBytes 0x33#8 s

/-- HFINISH (R197): the computation is closed; the digest is published unless ERR = 1. -/
def execHfinish (s : State) : Host.Outcome State Fault Refusal :=
  .next <|
    if s.hact = false then recordError .sequence 0x34#8 s
    else if s.err then closeHmac s
    else publish (outerDigest s.kp s.ictx.final) (closeHmac s)

end Sys2Proof.Machine
end

