-- ==== Sys2Proof/Machine/Key.lean ====
section
/-! DEFINITION. The raw-key commands (42_key section 3). -/

namespace Sys2Proof.Machine

/-- KBEGIN (R147): any session is discarded, a raw one begins. -/
def execKbegin (s : State) : Host.Outcome State Fault Refusal :=
  .next { clearStaging s with ksph := .raw }

/-- KBYTE b (R148). -/
def execKbyte (b : Byte) (s : State) : Host.Outcome State Fault Refusal :=
  .next <|
    if s.ksph = .failed then s
    else if s.ksph ≠ .raw then recordError .sequence 0x11#8 s
    else keyPush b 0x11#8 s

/-- KWORD (R149): the length is checked before any byte is appended. -/
def execKword (s : State) : Host.Outcome State Fault Refusal :=
  .next <|
    if s.ksph = .failed then s
    else if s.ksph ≠ .raw then recordError .sequence 0x12#8 s
    else if Config.maxKeyBytes < s.kcnt + 4 then { recordError .length 0x12#8 s with ksph := .failed }
    else keyPushAll s.data0Bytes 0x12#8 s

/-- KEND (R150). -/
def execKend (s : State) : Host.Outcome State Fault Refusal :=
  .next <|
    if s.ksph = .failed then endSession s
    else if s.ksph ≠ .raw then recordError .sequence 0x13#8 s
    else commit s

end Sys2Proof.Machine
end

