-- ==== Sys2Proof/Machine/Dispatch.lean ====
section
/-! DEFINITION. One arm per command: its effect at its completion step (70_reset R247). -/

namespace Sys2Proof.Machine

def exec (i : Instr) (s : State) : Host.Outcome State Fault Refusal :=
  match i with
  | .nop => Sys2Proof.Machine.execNop s
  | .srst => Sys2Proof.Machine.execSrst s
  | .eclr => Sys2Proof.Machine.execEclr s
  | .kbegin => Sys2Proof.Machine.execKbegin s
  | .kbyte b => Sys2Proof.Machine.execKbyte b s
  | .kword => Sys2Proof.Machine.execKword s
  | .kend => Sys2Proof.Machine.execKend s
  | .bbegin => Sys2Proof.Machine.execBbegin s
  | .bchar c => Sys2Proof.Machine.execBchar c s
  | .bword => Sys2Proof.Machine.execBword s
  | .bend => Sys2Proof.Machine.execBend s
  | .hstart => Sys2Proof.Machine.execHstart s
  | .mbyte b => Sys2Proof.Machine.execMbyte b s
  | .mword => Sys2Proof.Machine.execMword s
  | .mctr => Sys2Proof.Machine.execMctr s
  | .hfinish => Sys2Proof.Machine.execHfinish s

end Sys2Proof.Machine
end

