-- ==== Sys2Proof/Machine/Window.lean ====
section
/-! DEFINITION. The register window as the host sees it (10_state R23 to R33, 20_memory R60 to R65) and the acceptance of a
command (70_reset R245, R246). -/

namespace Sys2Proof.Machine

/-- The offset of a register from `BASE` (R23). -/
def regOffset : Reg → Nat
  | .ID => 0x00
  | .CTRL => 0x04
  | .STATUS => 0x08
  | .CMD => 0x0C
  | .DATA0 => 0x10
  | .DATA1 => 0x14
  | .KLEN => 0x18
  | .MLEN => 0x1C
  | .DIGEST0 => 0x20
  | .DIGEST1 => 0x24
  | .DIGEST2 => 0x28
  | .DIGEST3 => 0x2C
  | .DIGEST4 => 0x30

/-- The hardwired ID register, ASCII "HSB1" (R24). -/
def idWord : Word := 0x48534231

/-- The value of the register at an offset (R23 to R33, R62). CMD and the reserved offsets read zero. A read changes no
state. -/
def readReg (off : Nat) (s : State) : Word :=
  match off with
  | 0x00 => idWord
  | 0x04 => s.ctrl.word
  | 0x08 => s.statusWord
  | 0x10 => s.data0
  | 0x14 => s.data1
  | 0x18 => s.klen
  | 0x1C => s.mlen
  | 0x20 => s.dig.h0
  | 0x24 => s.dig.h1
  | 0x28 => s.dig.h2
  | 0x2C => s.dig.h3
  | 0x30 => s.dig.h4
  | _ => 0

/-- A write of word w to CMD (70_reset R245): accepted with copies of CTRL, DATA0, DATA1 (R246), or dropped with the error
BUSY. The delay of the completion is a free value (log 1). -/
def writeCmd (w : Word) (s : State) : State :=
  match s.pend with
  | none =>
    { s with
      pend := some { word := w, latch := s.liveLatch, delay := Config.delay w s.freeCount }
      freeCount := s.freeCount + 1 }
  | some _ => recordError .busy (opcField w) s

/-- A write to the register at an offset (20_memory R63). -/
def writeReg (off : Nat) (v : Word) (s : State) : State :=
  match off with
  | 0x04 => { s with ctrl := s.ctrl.write v }
  | 0x0C => writeCmd v s
  | 0x10 => { s with data0 := v }
  | 0x14 => { s with data1 := v }
  | _ => s

/-- Is an address inside [BASE, BASE + 0x40) (R60, R61)? -/
def inWindow (addr : Nat) : Bool := decide (Config.base ≤ addr ∧ addr < Config.base + Config.windowBytes)

/-- A 32-bit access at a 4-byte-aligned address (R64). -/
def aligned32 (addr bytes : Nat) : Bool := decide (bytes = 4 ∧ addr % 4 = 0)

/-- An access of the host, if it is admitted (R61, R64): `act` at the offset of the register. -/
def access (addr bytes : Nat) (act : Nat → State → State) (s : State) : Host.Outcome State Fault Refusal :=
  if inWindow addr = false then .refused .outsideWindow
  else if aligned32 addr bytes = false then .fault .hostStuck
  else .next (act (addr - Config.base) s)

/-- The host notes the value a read returned (R62; log 13). -/
def noteRead (off : Nat) (s : State) : State := { s with reads := s.reads ++ [(off, readReg off s)] }

end Sys2Proof.Machine
end

