-- ==== Sys2Proof/Machine/Engine.lean ====
section
/-! DEFINITION. The two agents and the reset input (00_scope R6, 70_reset): the engine's completion step, the host's step,
and which of them moves. -/

namespace Sys2Proof.Machine

/-- PEND <- none; BUSY <- 0, after a command's effect (R247). -/
def retireOutcome : Host.Outcome State Fault Refusal → Host.Outcome State Fault Refusal
  | .next t => .next (retire t)
  | .fault f => .fault f
  | .refused r => .refused r

/-- The completion step of a pending command (R247): its rule if the word is legal, else ILLEGAL (30_encoding R85). -/
def complete (p : Pending) (s : State) : Host.Outcome State Fault Refusal :=
  match decode p.word with
  | .command i => retireOutcome (exec i s)
  | .illegal _ => .next (retire (recordError .illegal (opcField p.word) s))

/-- One step of the host or of the reset input; `s` has that input already taken off its list, but for a POLL that must read
again (R90). While reset is asserted accesses are refused (R240). -/
def inputStep (inp : Input) (s : State) : Host.Outcome State Fault Refusal :=
  match inp with
  | .assertReset => .next (resetBlock { s with inReset := true })
  | .releaseReset => .next { s with inReset := false }
  | .read addr bytes =>
    if s.inReset then .refused .accessInReset else access addr bytes noteRead s
  | .write addr bytes v =>
    if s.inReset then .refused .accessInReset else access addr bytes (fun off => writeReg off v) s
  | .poll =>
    if s.inReset then .refused .accessInReset
    else if s.busy then .next (noteRead 0x08 { s with inputs := .poll :: s.inputs })
    else .next (noteRead 0x08 s)

/-- A host step while a command is in flight uses up one step of its delay (R254; log 1). -/
def countDown (s : State) : State :=
  { s with pend := s.pend.map (fun p => { p with delay := p.delay - 1 }) }

/-- One step of the whole machine. While reset is asserted only the inputs move. A command in flight completes when its
delay is used up or the host has nothing left to do (R247, R254, R255); until then, and while idle, the host moves. With no
command and no input the block is idle (60_exceptions R226). -/
def machineStep (s : State) : Host.Outcome State Fault Refusal :=
  match s.inputs with
  | [] =>
    match s.inReset, s.pend with
    | false, some p => complete p s
    | _, _ => .next s
  | inp :: rest =>
    match s.inReset, s.pend with
    | false, some p =>
      if p.delay = 0 then complete p s
      else inputStep inp (countDown { s with inputs := rest })
    | _, _ => inputStep inp { s with inputs := rest }

/-- The state in which a command word has just been accepted and completes at the next step: reset released, the word in
PEND with copies of the live registers, no delay left. -/
def placeCommand (w : Word) (s : State) : State :=
  { s with inReset := false, pend := some { word := w, latch := s.liveLatch, delay := 0 } }

end Sys2Proof.Machine
end

