-- ==== Sys2Proof/Machine/Step.lean ====
section
/-! DEFINITION. The step of the machine, and the placing of one command word where the next step runs it. -/

namespace Sys2Proof.Machine

/-- One step: a completion, a host access, a change of the reset input, or idling (70_reset R247, R254, R255). -/
def step (s : State) : Host.Outcome State Fault Refusal := machineStep s

/-- The block fetches nothing (10_state R21): a command comes to run by being accepted from CMD. This is the state just
after that acceptance, with no delay left (log 2). -/
def State.withFetchWord (s : State) (nbits w : Nat) : State := placeCommand (tableWord nbits w) s

end Sys2Proof.Machine
end

