-- ==== Sys2Proof/WellFormed.lean ====
section
/-! DEFINITION. Which terms are well formed. A command (`Instr`) always is: its only field is an 8-bit IMM8 (30_encoding
R81, R83), so its type admits nothing else. A host statement carries values as written, and R88 to R90 bound them: those are
the checks here. -/

namespace Sys2Proof

/-- Why a host statement is not well formed. -/
inductive StmtError where
  /-- `WR` of a value that is no 32-bit value (R23, R88). -/
  | valueTooWide
  /-- An imm written for a command without an IMM8 operand (R89: an assembly error). -/
  | immNotTaken
  /-- An imm outside 0..255 (R89: an assembly error). -/
  | immTooWide
  /-- A character of `BSTR` whose code is no 8-bit code (R81, R90; log 17). -/
  | charTooWide
  /-- A byte of `KSTR` outside 0..255 (R89, R90). -/
  | byteTooWide
  /-- `LDCTR v` with v not below 2^64 (R90). -/
  | counterTooWide
deriving DecidableEq, Repr

/-- The first thing wrong with a host statement, if any. R88 gives a character its ASCII code only; one from U+0080 to
U+00FF has none, and the model admits it with its Unicode code point as IMM8: DESIGN CHOICE, log 18. -/
def Stmt.error : Stmt → Option StmtError
  | .wr _ v => if v < 2 ^ 32 then none else some .valueTooWide
  | .cmd m (some v) =>
      if m.takesImm = false then some .immNotTaken
      else if v < 256 then none else some .immTooWide
  | .bstr cs => if cs.all (fun c => c.toNat < 256) then none else some .charTooWide
  | .kstr bs => if bs.all (fun b => b < 256) then none else some .byteTooWide
  | .ldctr v => if v < 2 ^ 64 then none else some .counterTooWide
  | .rd _ | .cmd _ none | .poll | .rddig | .check => none

/-- A host statement that assembles (R88 to R90). -/
def Stmt.wellFormed (st : Stmt) : Bool := st.error.isNone

end Sys2Proof
end

