-- ==== Sys2Proof/Machine/Asm.lean ====
section
/-! DEFINITION. The assembler of the host's statements and pseudo-instructions (30_encoding R88 to R90). -/

namespace Sys2Proof.Machine

/-- `WR REG, v` (R88). -/
def asmWr (r : Reg) (v : Nat) : Input := .write (Config.base + regOffset r) 4 (BitVec.ofNat 32 v)

/-- `RD REG` (R88). -/
def asmRd (r : Reg) : Input := .read (Config.base + regOffset r) 4

/-- `POLL; WR CMD, enc(OP, imm)`, for an imm that `Stmt.error` has passed, so one that fits in IMM8 (R89). -/
def asmCmd (m : Mnemonic) (imm : Nat) : List Input :=
  [.poll, .write (Config.base + regOffset .CMD) 4 (encodeParts m (BitVec.ofNat 8 imm))]

/-- The host accesses of a statement that `Stmt.error` has passed (R88, R89, R90). A character of BSTR that has no ASCII
code (U+0080 to U+00FF), which R88 gives no value, stands for its Unicode code point: DESIGN CHOICE, log 18. -/
def expansion : Stmt → List Input
  | .wr r v => [asmWr r v]
  | .rd r => [asmRd r]
  | .cmd m imm => asmCmd m (imm.getD 0)
  | .poll => [.poll]
  | .bstr cs => asmCmd .BBEGIN 0 ++ cs.flatMap (fun c => asmCmd .BCHAR c.toNat) ++ asmCmd .BEND 0
  | .kstr bs => asmCmd .KBEGIN 0 ++ bs.flatMap (fun b => asmCmd .KBYTE b) ++ asmCmd .KEND 0
  | .ldctr v => [asmWr .DATA1 (v / 2 ^ 32), asmWr .DATA0 (v % 2 ^ 32)] ++ asmCmd .MCTR 0
  | .rddig => [.poll, asmRd .DIGEST0, asmRd .DIGEST1, asmRd .DIGEST2, asmRd .DIGEST3, asmRd .DIGEST4]
  | .check => [.poll, asmRd .STATUS]

/-- A statement assembles to its expansion, or is an assembly error (R89; the range checks of R88 and R90, log 17). -/
def assemble (st : Stmt) : Except StmtError (List Input) :=
  match st.error with
  | some e => .error e
  | none => .ok (expansion st)

/-- A program assembles statement by statement; its first assembly error is the program's, and nothing of it runs. -/
def assembleProgram : List Stmt → Except StmtError (List Input)
  | [] => .ok []
  | st :: rest =>
    match assemble st, assembleProgram rest with
    | .error e, _ => .error e
    | .ok _, .error e => .error e
    | .ok xs, .ok ys => .ok (xs ++ ys)

/-- A program put at the end of what the host has still to do (log 2), if it assembles. -/
def State.withProgram (prog : List Stmt) (s : State) : Except StmtError State :=
  match assembleProgram prog with
  | .error e => .error e
  | .ok xs => .ok { s with inputs := s.inputs ++ xs }

end Sys2Proof.Machine
end

