-- ==== Sys2Proof/Machine/HostRef.lean ====
section
/-! DEFINITION. The host reference functions of TOTP use (00_scope R12 to R17). They are outside the block and no rule of the
block reads them; the end-to-end vectors are checked with them. -/

namespace Sys2Proof.Machine

/-- The time counter, floor(t / 30) (R12). -/
def timeCounter (t : Nat) : Nat := t / 30

/-- The counter message: eight bytes, big-endian (R13). -/
def counterMessage (counter : Nat) : List Byte := be64Bytes counter

/-- What the host writes to DATA1 and DATA0 for a counter (R13). -/
def counterWords (counter : Nat) : Word × Word := (BitVec.ofNat 32 (counter / 2 ^ 32), BitVec.ofNat 32 counter)

/-- The truncation offset, digest[19] & 0x0F (R14). -/
def truncOffset (digest : List Byte) : Nat := (digest.getD 19 0 &&& 0x0F).toNat

/-- The truncated value, a 4-byte window with its top bit cleared (R15). -/
def truncatedValue (digest : List Byte) : Nat :=
  let o := truncOffset digest
  (be32 (digest.getD o 0) (digest.getD (o + 1) 0) (digest.getD (o + 2) 0) (digest.getD (o + 3) 0) &&& 0x7FFFFFFF).toNat

/-- The code as a number (R16). -/
def otpCode (digest : List Byte) : Nat := truncatedValue digest % 1000000

/-- The decimal digits of `n`, `k` of them, zero-padded, most significant first. -/
def decimalDigits : Nat → Nat → List Char
  | 0, _ => []
  | k + 1, n => decimalDigits k (n / 10) ++ [Char.ofNat (0x30 + n % 10)]

/-- The code as a zero-padded 6-digit decimal string (R16). -/
def otpString (digest : List Byte) : List Char := decimalDigits 6 (otpCode digest)

/-- `secondsUntilNextStep`, 1 to 30 (R17). -/
def secondsUntilNextStep (t : Nat) : Nat := 30 - t % 30

end Sys2Proof.Machine
end

