-- ==== Sys2Proof/Safety.lean ====
section
/-! DEFINITION. What a good run is, in the terms the claims use: inputs the block admits, and the invariants of the block's
own state (10_state R34, R37, R38, R39, R40, R42). -/

namespace Sys2Proof.Machine

/-- An input that the block admits: an aligned 32-bit access inside the window, a POLL, a change of the reset input
(20_memory R61, R64). -/
def Admitted : Input → Bool
  | .read addr bytes => inWindow addr && aligned32 addr bytes
  | .write addr bytes _ => inWindow addr && aligned32 addr bytes
  | .poll | .assertReset | .releaseReset => true

/-- An input that is an access of the host, which is refused while reset is asserted (70_reset R240). -/
def IsAccess : Input → Bool
  | .read _ _ | .write _ _ _ | .poll => true
  | .assertReset | .releaseReset => false

/-- The seven invariants of R42. -/
structure StatusInv (s : State) : Prop where
  hact_key    : s.hact = true → s.kvalid = true
  idle_clear  : s.ksph = .idle → s.kcnt = 0 ∧ s.nbits = 0 ∧ s.acc = 0
  raw_nbits   : s.ksph = .raw → s.nbits = 0
  nbits_le    : s.nbits ≤ 7
  err_clear   : s.err = false → s.errCode = .none ∧ s.errOpc = 0x00#8
  dig_clear   : s.dvalid = false → s.dig = ⟨0, 0, 0, 0, 0⟩
  klong_iff   : s.klong = true ↔ 64 < s.kcnt

/-- A SHA-1 context within the bounds of R34 and R163. -/
structure Sha1Ctx.Wf (c : Sha1Ctx) : Prop where
  buf_len : c.buf.length = c.cnt % 64
  cnt_lt  : c.cnt < 2 ^ 61

/-- The bounds of R34, R37, R39 and R40 on the sizes of the state. -/
structure SizeInv (s : State) : Prop where
  acc_lt   : s.nbits ≤ 7 ∧ s.acc.toNat < 2 ^ s.nbits
  kcnt_le  : s.kcnt ≤ Config.maxKeyBytes
  kraw_len : s.kraw.length = min s.kcnt 64
  kctx_wf  : 64 < s.kcnt → s.kctx.Wf ∧ s.kctx.cnt = s.kcnt
  kp_len   : s.kp.length = 64
  mcnt_le  : s.mcnt ≤ Config.maxMsgBytes
  ictx_wf  : s.hact = true → s.ictx.Wf ∧ s.ictx.cnt = 64 + s.mcnt

/-- The abstract view: some byte sequence is the staging key (R38), some key is the committed one (R146), some message is
the one absorbed (R40, R198), and the concrete fields are what the rules compute from them. -/
structure AbstractInv (s : State) : Prop where
  staged    : ∃ key : List Byte, key.length = s.kcnt ∧ s.kraw = key.take 64 ∧
                (64 < key.length → s.kctx = Sha1Ctx.init.absorbAll key)
  committed : s.kvalid = true → ∃ key : List Byte, s.kp = expandKey key ∧ s.klen = BitVec.ofNat 32 key.length
  message   : s.hact = true → ∃ msg : List Byte, msg.length = s.mcnt ∧
                s.ictx = Sha1Ctx.init.absorbAll (innerKey s.kp ++ msg)

/-- Every host-visible register and every named internal field has the value R44 gives it; KP, KCTX and ICTX, which R44
leaves unspecified, are not mentioned. -/
structure AtResetValues (s : State) : Prop where
  ctrl    : s.ctrl = { mode := .strict, strip := true }
  data    : s.data0 = 0 ∧ s.data1 = 0
  idle    : s.pend = none
  error   : s.err = false ∧ s.errCode = .none ∧ s.errOpc = 0
  staging : s.ksph = .idle ∧ s.kraw = [] ∧ s.kcnt = 0 ∧ s.acc = 0 ∧ s.nbits = 0
  key     : s.kvalid = false ∧ s.klen = 0
  hmac    : s.hact = false ∧ s.mcnt = 0
  digest  : s.dvalid = false ∧ s.dig = ⟨0, 0, 0, 0, 0⟩

/-! ### What a command leaves as it was, by kind of state -/

/-- CTRL, DATA0, DATA1 and PEND. -/
def SameConfig (s t : State) : Prop := t.ctrl = s.ctrl ∧ t.data0 = s.data0 ∧ t.data1 = s.data1 ∧ t.pend = s.pend

/-- ERR, ERRCODE and ERROPC. -/
def SameError (s t : State) : Prop := t.err = s.err ∧ t.errCode = s.errCode ∧ t.errOpc = s.errOpc

/-- KRAW, KCNT and KCTX: the bytes of the staging key. -/
def SameStagedBytes (s t : State) : Prop := t.kraw = s.kraw ∧ t.kcnt = s.kcnt ∧ t.kctx = s.kctx

/-- ACC and NBITS: the bits of the decoder. -/
def SameBits (s t : State) : Prop := t.acc = s.acc ∧ t.nbits = s.nbits

/-- The whole staging session: KSPH, the staged bytes and the decoder's bits. -/
def SameSession (s t : State) : Prop := t.ksph = s.ksph ∧ SameStagedBytes s t ∧ SameBits s t

/-- KVALID, KP and KLEN: the committed key. -/
def SameKey (s t : State) : Prop := t.kvalid = s.kvalid ∧ t.kp = s.kp ∧ t.klen = s.klen

/-- HACT, ICTX and MCNT: the HMAC computation. -/
def SameHmac (s t : State) : Prop := t.hact = s.hact ∧ t.ictx = s.ictx ∧ t.mcnt = s.mcnt

/-- DVALID and DIG. -/
def SameDigest (s t : State) : Prop := t.dvalid = s.dvalid ∧ t.dig = s.dig

/-- The reset input and the host's own state. -/
def SameWorld (s t : State) : Prop := t.inReset = s.inReset ∧ t.inputs = s.inputs ∧ t.reads = s.reads

/-- Only the staging session and the error record may differ. -/
def OnlySessionAndError (s t : State) : Prop :=
  SameConfig s t ∧ SameKey s t ∧ SameHmac s t ∧ SameDigest s t ∧ SameWorld s t

/-- Only the HMAC computation and the error record may differ. -/
def OnlyHmacAndError (s t : State) : Prop :=
  SameConfig s t ∧ SameSession s t ∧ SameKey s t ∧ SameDigest s t ∧ SameWorld s t

/-! ### What the rules say happens -/

/-- An error was recorded (60_exceptions R214): ERR is 1, and the first error's code and opcode are kept. -/
def ErrorRecorded (code : ErrCode) (opc : Byte) (s t : State) : Prop :=
  t.err = true ∧ (s.err = false → t.errCode = code ∧ t.errOpc = opc) ∧
    (s.err = true → t.errCode = s.errCode ∧ t.errOpc = s.errOpc)

/-- The session is closed: KSPH = IDLE and the staging state cleared (10_state R37; KCTX is don't-care). -/
def SessionClosed (t : State) : Prop :=
  t.ksph = .idle ∧ t.kraw = [] ∧ t.kcnt = 0 ∧ t.acc = 0 ∧ t.nbits = 0

/-- One byte was pushed to the staging key (42_key R141, R142): the LENGTH error at the limit, else the byte appended, with
the running hash begun at the 65th byte. -/
def KeyPushed (b opc : Byte) (s t : State) : Prop :=
  (s.kcnt = Config.maxKeyBytes → ErrorRecorded .length opc s t ∧ t.ksph = .failed ∧ SameStagedBytes s t) ∧
  (s.kcnt ≠ Config.maxKeyBytes →
    SameError s t ∧ t.ksph = s.ksph ∧ t.kcnt = s.kcnt + 1 ∧
    (s.kcnt < 64 → t.kraw = s.kraw ++ [b] ∧ t.kctx = s.kctx) ∧
    (s.kcnt = 64 → t.kraw = s.kraw ∧ t.kctx = (Sha1Ctx.init.absorbAll s.kraw).absorb b) ∧
    (64 < s.kcnt → t.kraw = s.kraw ∧ t.kctx = s.kctx.absorb b))

/-- The staging key was committed (42_key R146): K' by R143, KVALID, KLEN, no open computation, the session closed. -/
def KeyCommitted (s t : State) : Prop :=
  t.kvalid = true ∧ t.klen = BitVec.ofNat 32 s.kcnt ∧
  (s.kcnt ≤ 64 → t.kp = s.kraw ++ zeros (64 - s.kcnt)) ∧
  (64 < s.kcnt → t.kp = s.kctx.final ++ zeros 44) ∧
  t.hact = false ∧ t.mcnt = s.mcnt ∧ SessionClosed t ∧
  SameError s t ∧ SameConfig s t ∧ SameDigest s t ∧ SameWorld s t

/-- One character was decoded (41_base32 R121, R123), in numbers: with the value v of the character, the stream held is
X = ACC * 32 + v; eight bits or more give the byte of the oldest eight. -/
def CharDecoded (strip : Bool) (c opc : Byte) (s t : State) : Prop :=
  (charClass strip c = .skip → SameSession s t ∧ SameError s t) ∧
  (charClass strip c = .bad →
    ErrorRecorded .invalidChar opc s t ∧ t.ksph = .failed ∧ SameStagedBytes s t ∧ SameBits s t) ∧
  (∀ v, charClass strip c = .value v → s.nbits < 3 →
    t.acc.toNat = s.acc.toNat * 32 + v.toNat ∧ t.nbits = s.nbits + 5 ∧ t.ksph = s.ksph ∧ SameStagedBytes s t ∧
      SameError s t) ∧
  (∀ v, charClass strip c = .value v → 3 ≤ s.nbits →
    t.acc.toNat = (s.acc.toNat * 32 + v.toNat) % 2 ^ (s.nbits - 3) ∧ t.nbits = s.nbits - 3 ∧
      KeyPushed (BitVec.ofNat 8 ((s.acc.toNat * 32 + v.toNat) / 2 ^ (s.nbits - 3))) opc s t)

/-- One character of BWORD (41_base32 R127): nothing once the session has failed, nothing for the filler 0x00. -/
def WordCharDecoded (strip : Bool) (c : Byte) (s t : State) : Prop :=
  (s.ksph = .failed ∨ c = 0x00#8 → SameSession s t ∧ SameError s t) ∧
  (s.ksph ≠ .failed → c ≠ 0x00#8 → CharDecoded strip c 0x22#8 s t)

/-- Message bytes were offered to the inner hash (44_hmac R194 to R196, R198): SEQUENCE with no open computation, LENGTH
and the computation closed beyond the limit, else all bytes absorbed. -/
def MessageAbsorbed (bs : List Byte) (opc : Byte) (s t : State) : Prop :=
  (s.hact = false → ErrorRecorded .sequence opc s t ∧ SameHmac s t) ∧
  (s.hact = true → Config.maxMsgBytes < s.mcnt + bs.length →
    ErrorRecorded .length opc s t ∧ t.hact = false ∧ t.mcnt = s.mcnt) ∧
  (s.hact = true → s.mcnt + bs.length ≤ Config.maxMsgBytes →
    SameError s t ∧ t.hact = true ∧ t.mcnt = s.mcnt + bs.length ∧ t.ictx = s.ictx.absorbAll bs)

/-- The host moves next: reset is released, and no command in flight is due (70_reset R247, R254). -/
def HostMoves (s : State) : Prop := s.inReset = false ∧ ∀ p, s.pend = some p → p.delay ≠ 0

/-- A command in flight is due: the engine moves next (70_reset R247, R255). -/
def EngineMoves (p : Pending) (s : State) : Prop :=
  s.inReset = false ∧ s.pend = some p ∧ (s.inputs = [] ∨ p.delay = 0)

/-- The same state with other live CTRL, DATA0 and DATA1. -/
def State.withLive (c : Ctrl) (d0 d1 : Word) (s : State) : State := { s with ctrl := c, data0 := d0, data1 := d1 }

/-- The same state with another committed K', another inner hash and another digest: where the key can be. -/
def State.withSecrets (kp : List Byte) (ictx : Sha1Ctx) (dig : Hash) (s : State) : State :=
  { s with kp := kp, ictx := ictx, dig := dig }

/-- The same state with another error record. -/
def State.withError (err : Bool) (code : ErrCode) (opc : Byte) (s : State) : State :=
  { s with err := err, errCode := code, errOpc := opc }

/-- `u` is the state in which BCHAR or BWORD, run on `s`, reaches its character `c` with no error recorded by it before:
for BCHAR the state itself, for BWORD the state after the characters before `c` (60_exceptions R216, 41_base32 R127). -/
def ReachesChar (i : Instr) (l : Latch) (s u : State) (c : Byte) : Prop :=
  u.err = false ∧ u.ksph = .b32 ∧
    ((i = .bchar c ∧ u = s) ∨
     (i = .bword ∧ ∃ k, (be32Bytes l.data0)[k]? = some c ∧
       u = b32Chars l.ctrl.strip 0x22#8 ((be32Bytes l.data0).take k) s))

/-! ### Sequences of commands -/

/-- Commands accepted and completed one after the other. -/
def completeAll : List Pending → State → Host.Outcome State Fault Refusal
  | [], s => .next s
  | p :: ps, s =>
    match complete p { s with pend := some p } with
    | .next t => completeAll ps t
    | .fault f => .fault f
    | .refused r => .refused r

/-- The message bytes a command offers when it completes in `s`, and `none` for one that ends or restarts the computation or
replaces the key: SRST, HSTART, HFINISH, and a KEND or BEND that commits (44_hmac R199, 42_key R150, 41_base32 R129). -/
def offeredBytes (p : Pending) (s : State) : Option (List Byte) :=
  match decode p.word with
  | .command (.mbyte b) => some [b]
  | .command .mword => some (be32Bytes p.latch.data0)
  | .command .mctr => some (be32Bytes p.latch.data1 ++ be32Bytes p.latch.data0)
  | .command .kend => if s.ksph = .raw then none else some []
  | .command .bend => if s.ksph = .b32 ∧ lenOk p.latch.ctrl.mode s.nbits = true ∧ s.kcnt ≠ 0 then none else some []
  | .command .nop | .command .eclr | .command .kbegin | .command (.kbyte _) | .command .kword
  | .command .bbegin | .command (.bchar _) | .command .bword => some []
  | .command .srst | .command .hstart | .command .hfinish => none
  | .illegal _ => some []

/-- The message that commands completed one after the other from `s` offer, if none of them ends or restarts the
computation or replaces the key. -/
def offeredMessage : List Pending → State → Option (List Byte)
  | [], _ => some []
  | p :: ps, s =>
    match offeredBytes p s, complete p { s with pend := some p } with
    | some bs, .next t => (offeredMessage ps t).map (bs ++ ·)
    | _, _ => none

/-! ### Base32 strings as bit strings (41_base32 R124) -/

/-- The five bits of a value, most significant first. -/
def valueBits (v : BitVec 5) : List Bool :=
  [v.getLsbD 4, v.getLsbD 3, v.getLsbD 2, v.getLsbD 1, v.getLsbD 0]

/-- A bit string read as a number, first bit most significant. -/
def bitsToNat (bits : List Bool) : Nat := bits.foldl (fun n b => 2 * n + b.toNat) 0

/-- The whole bytes of a bit string, first bit as bit 7 of the first byte. -/
def bitsToBytes (bits : List Bool) : List Byte :=
  (List.range (bits.length / 8)).map (fun j => BitVec.ofNat 8 (bitsToNat ((bits.drop (8 * j)).take 8)))

/-- The values of the characters that have one: SKIP characters are left out. -/
def charValues (strip : Bool) (cs : List Byte) : List (BitVec 5) :=
  cs.filterMap (fun c => match charClass strip c with | .value v => some v | _ => none)

/-- The bit string of a Base32 string. -/
def charBits (strip : Bool) (cs : List Byte) : List Bool := (charValues strip cs).flatMap valueBits

/-- A message padded to whole blocks (43_sha1 R170). -/
def sha1Pad (m : List Byte) : List Byte :=
  m ++ [0x80#8] ++ zeros ((119 - m.length % 64) % 64) ++ be64Bytes (8 * m.length)

end Sys2Proof.Machine
end

