-- ==== Sys2Proof/Certificates/Slice0/Obligations.lean ====
section
/-! DEFINITION. The statements about the block, from the numbered rules of spec/. Statements of an instruction's result are
completion statements too: they conclude that `exec` answers a next state, and say what it holds. -/

open Sys2Proof Sys2Proof.Machine

/-! ### Encoding (30_encoding) -/

/-- From 30_encoding sections 1 and 3 (R80, R84): decoding the encoding of any command gives it back, with its operand at
every value. -/
def Obligations.DecodeOfEncodeIsTheCommand : Prop :=
  ∀ i : Instr, decode (encode i) = .command i

/-- From 30_encoding sections 1 and 3 (R80, R85): a word that decodes is the encoding of what it decodes to, so each command
has one word. -/
def Obligations.EachCommandHasOneWord : Prop :=
  ∀ (w : Word) (i : Instr), decode w = .command i → w = encode i

/-- R85: a word is legal iff its opcode is one of the sixteen, RSV is zero, and IMM8 is zero but for KBYTE, BCHAR, MBYTE; an
accepted illegal word records ILLEGAL with its opcode field at its completion and does nothing else. -/
def Obligations.IllegalWordsRecordIllegal : Prop :=
  (∀ w : Word, (∃ i, decode w = .command i) ↔
    (opcField w ∈ [0x00#8, 0x01#8, 0x02#8, 0x10#8, 0x11#8, 0x12#8, 0x13#8, 0x20#8, 0x21#8, 0x22#8, 0x23#8, 0x30#8, 0x31#8, 0x32#8, 0x33#8, 0x34#8]) ∧
    rsvField w = 0 ∧ (immField w = 0 ∨ opcField w = 0x11#8 ∨ opcField w = 0x21#8 ∨ opcField w = 0x31#8)) ∧
  (∀ (s : State) (p : Pending), EngineMoves p s → (∀ i, decode p.word ≠ .command i) →
    ∃ t, step s = .next t ∧ ErrorRecorded .illegal (opcField p.word) s t ∧ t.pend = none ∧
      t.ctrl = s.ctrl ∧ t.data0 = s.data0 ∧ t.data1 = s.data1 ∧
      SameSession s t ∧ SameKey s t ∧ SameHmac s t ∧ SameDigest s t ∧ SameWorld s t)

/-- From 30_encoding section 3 (R84): no word matches two rows of the opcode table under their masks. -/
def Obligations.TableRowsDoNotOverlap : Prop :=
  ∀ (m m' : Mnemonic) (w : Word),
    w &&& m.mask = encodeParts m 0 → w &&& m'.mask = encodeParts m' 0 → m = m'

/-- Words written out from R84 decode to their commands, one or more of each family, and three words are illegal (sanity).
The reasons nonzeroImm, nonzeroRsv and reservedOpcode are the model's names (log 16): the spec has the one error ILLEGAL. -/
def Obligations.SomeWordsOfEachFamilyDecode : Prop :=
  decode 0x01000000 = .command .srst ∧ decode 0x110000FE = .command (.kbyte 0xFE#8) ∧
  decode 0x21000047 = .command (.bchar 0x47#8) ∧ decode 0x23000000 = .command .bend ∧
  decode 0x31000077 = .command (.mbyte 0x77) ∧ decode 0x34000000 = .command .hfinish ∧
  decode 0x00000001 = .illegal .nonzeroImm ∧ decode 0x30000100 = .illegal .nonzeroRsv ∧
  decode 0x03000000 = .illegal .reservedOpcode

/-! ### Control commands (40_control) -/

/-- R100: NOP has no effect; it leaves an error record as it is. -/
def Obligations.NopHasNoEffect : Prop :=
  ∀ s : State, exec .nop s = .next s

/-- R101: SRST gives every field but CTRL, DATA0, DATA1 its reset value, and STATUS is 0 once it has completed; it is the
only command that clears DVALID. KP, ICTX and KCTX are unspecified afterwards and not mentioned (log 5). -/
def Obligations.SrstResetsAllButConfiguration : Prop :=
  (∀ (i : Instr) (s t : State), exec i s = .next t → s.dvalid = true → t.dvalid = false → i = .srst) ∧
  ∀ s : State, ∃ t, exec .srst s = .next t ∧
    SameConfig s t ∧ SameWorld s t ∧
    (t.err = false ∧ t.errCode = .none ∧ t.errOpc = 0x00#8) ∧ SessionClosed t ∧
    (t.kvalid = false ∧ t.klen = 0) ∧ (t.hact = false ∧ t.mcnt = 0 ∧ t.mlen = 0) ∧
    (t.dvalid = false ∧ t.dig = ⟨0, 0, 0, 0, 0⟩) ∧ (retire t).statusWord = 0

/-- R102: ECLR clears ERR, ERRCODE and ERROPC and changes nothing else; a FAILED session stays FAILED. -/
def Obligations.EclrClearsTheErrorRecordOnly : Prop :=
  ∀ s : State, ∃ t, exec .eclr s = .next t ∧
    (t.err = false ∧ t.errCode = .none ∧ t.errOpc = 0x00#8) ∧
    SameConfig s t ∧ SameSession s t ∧ SameKey s t ∧ SameHmac s t ∧ SameDigest s t ∧ SameWorld s t

/-! ### Key staging (42_key) and the Base32 decoder (41_base32) -/

/-- R147, R125: KBEGIN and BBEGIN discard any session without an error and open an empty one; the committed key, the HMAC
state and the error state are unchanged. -/
def Obligations.BeginOpensAnEmptySession : Prop :=
  ∀ s : State,
    (∃ t, exec .kbegin s = .next t ∧ t.ksph = .raw ∧ t.kraw = [] ∧ t.kcnt = 0 ∧ t.acc = 0 ∧ t.nbits = 0 ∧
      t.klong = false ∧ SameError s t ∧ OnlySessionAndError s t) ∧
    (∃ t, exec .bbegin s = .next t ∧ t.ksph = .b32 ∧ t.kraw = [] ∧ t.kcnt = 0 ∧ t.acc = 0 ∧ t.nbits = 0 ∧
      t.klong = false ∧ SameError s t ∧ OnlySessionAndError s t)

/-- R148: KBYTE is ignored in FAILED, records SEQUENCE with no raw session, and appends its byte in one. -/
def Obligations.KbyteAppendsItsByte : Prop :=
  ∀ (b : Byte) (s : State), ∃ t, exec (.kbyte b) s = .next t ∧ OnlySessionAndError s t ∧
    (s.ksph = .failed → SameSession s t ∧ SameError s t) ∧
    (s.ksph = .idle ∨ s.ksph = .b32 → ErrorRecorded .sequence 0x11#8 s t ∧ SameSession s t) ∧
    (s.ksph = .raw → KeyPushed b 0x11#8 s t ∧ SameBits s t)

/-- R149: KWORD checks the length before any byte, then appends the four bytes of the latched DATA0, most significant first.
-/
def Obligations.KwordAppendsFourBytesOrNone : Prop :=
  ∀ (s : State) (p : Pending), s.pend = some p →
    ∃ t, exec .kword s = .next t ∧ OnlySessionAndError s t ∧ SameBits s t ∧
    (s.ksph = .failed → SameSession s t ∧ SameError s t) ∧
    (s.ksph = .idle ∨ s.ksph = .b32 → ErrorRecorded .sequence 0x12#8 s t ∧ SameSession s t) ∧
    (s.ksph = .raw → Config.maxKeyBytes < s.kcnt + 4 →
      ErrorRecorded .length 0x12#8 s t ∧ t.ksph = .failed ∧ SameStagedBytes s t) ∧
    (s.ksph = .raw → s.kcnt + 4 ≤ Config.maxKeyBytes →
      SameError s t ∧ t.ksph = .raw ∧ t.kcnt = s.kcnt + 4 ∧
      ∃ t1 t2 t3, KeyPushed (p.latch.data0.extractLsb' 24 8) 0x12#8 s t1 ∧
        KeyPushed (p.latch.data0.extractLsb' 16 8) 0x12#8 t1 t2 ∧
        KeyPushed (p.latch.data0.extractLsb' 8 8) 0x12#8 t2 t3 ∧
        KeyPushed (p.latch.data0.extractLsb' 0 8) 0x12#8 t3 t)

/-- R150: KEND ends a FAILED session without a commit, records SEQUENCE with no raw session, and commits a raw one, the empty
one too. -/
def Obligations.KendCommitsTheRawKey : Prop :=
  ∀ s : State, ∃ t, exec .kend s = .next t ∧
    (s.ksph = .failed → SessionClosed t ∧ SameError s t ∧ OnlySessionAndError s t) ∧
    (s.ksph = .idle ∨ s.ksph = .b32 → ErrorRecorded .sequence 0x13#8 s t ∧ SameSession s t ∧ OnlySessionAndError s t) ∧
    (s.ksph = .raw → KeyCommitted s t)

/-- R126: BCHAR is ignored in FAILED, records SEQUENCE with no Base32 session, and decodes its character in one, under the
STRIP bit latched at its acceptance. ACC and NBITS are within R122. -/
def Obligations.BcharDecodesItsCharacter : Prop :=
  ∀ (c : Byte) (s : State) (p : Pending), s.pend = some p → s.nbits ≤ 7 → s.acc.toNat < 2 ^ s.nbits →
    ∃ t, exec (.bchar c) s = .next t ∧ OnlySessionAndError s t ∧
    (s.ksph = .failed → SameSession s t ∧ SameError s t) ∧
    (s.ksph = .idle ∨ s.ksph = .raw → ErrorRecorded .sequence 0x21#8 s t ∧ SameSession s t) ∧
    (s.ksph = .b32 → CharDecoded p.latch.ctrl.strip c 0x21#8 s t)

/-- R127: BWORD decodes the four characters of the latched DATA0 in order, skips 0x00 fillers and stops at the first that
fails. -/
def Obligations.BwordDecodesFourCharacters : Prop :=
  ∀ (s : State) (p : Pending), s.pend = some p → s.nbits ≤ 7 → s.acc.toNat < 2 ^ s.nbits →
    ∃ t, exec .bword s = .next t ∧ OnlySessionAndError s t ∧
    (s.ksph = .failed → SameSession s t ∧ SameError s t) ∧
    (s.ksph = .idle ∨ s.ksph = .raw → ErrorRecorded .sequence 0x22#8 s t ∧ SameSession s t) ∧
    (s.ksph = .b32 → ∃ t1 t2 t3,
      WordCharDecoded p.latch.ctrl.strip (p.latch.data0.extractLsb' 24 8) s t1 ∧
      WordCharDecoded p.latch.ctrl.strip (p.latch.data0.extractLsb' 16 8) t1 t2 ∧
      WordCharDecoded p.latch.ctrl.strip (p.latch.data0.extractLsb' 8 8) t2 t3 ∧
      WordCharDecoded p.latch.ctrl.strip (p.latch.data0.extractLsb' 0 8) t3 t)

/-- R129 with R128: BEND ends a FAILED session silently, records SEQUENCE with no Base32 session, FRACTIONAL when the
leftover bits break the latched mode's length rule, EMPTY when no byte was decoded, and else commits the key. -/
def Obligations.BendAppliesTheLengthRule : Prop :=
  ∀ (s : State) (p : Pending), s.pend = some p → ∃ t, exec .bend s = .next t ∧
    (s.ksph = .failed → SessionClosed t ∧ SameError s t ∧ OnlySessionAndError s t) ∧
    (s.ksph = .idle ∨ s.ksph = .raw → ErrorRecorded .sequence 0x23#8 s t ∧ SameSession s t ∧ OnlySessionAndError s t) ∧
    (s.ksph = .b32 →
      (p.latch.ctrl.mode = .strict ∧ s.nbits ≠ 0) ∨ (p.latch.ctrl.mode = .legacy ∧ 4 ≤ s.nbits) →
      ErrorRecorded .fractional 0x23#8 s t ∧ SessionClosed t ∧ OnlySessionAndError s t) ∧
    (s.ksph = .b32 →
      (p.latch.ctrl.mode = .strict ∧ s.nbits = 0) ∨ (p.latch.ctrl.mode = .legacy ∧ s.nbits < 4) ∨
        p.latch.ctrl.mode = .rfc →
      (s.kcnt = 0 → ErrorRecorded .empty 0x23#8 s t ∧ SessionClosed t ∧ OnlySessionAndError s t) ∧
      (s.kcnt ≠ 0 → KeyCommitted s t))

/-- R120, R121: the lookup table, code by code, and STRIP = 0 making the SKIP codes BAD. -/
def Obligations.LookupTableIsTheAlphabet : Prop :=
  (∀ n : Nat, n < 26 → b32Lut (BitVec.ofNat 8 (0x41 + n)) = .value (BitVec.ofNat 5 n) ∧
    b32Lut (BitVec.ofNat 8 (0x61 + n)) = .value (BitVec.ofNat 5 n)) ∧
  (∀ n : Nat, n < 6 → b32Lut (BitVec.ofNat 8 (0x32 + n)) = .value (BitVec.ofNat 5 (26 + n))) ∧
  (∀ (c : Byte) (v : BitVec 5) (strip : Bool), b32Lut c = .value v → charClass strip c = .value v) ∧
  (∀ c : Byte, c ∈ [0x09#8, 0x0A#8, 0x0D#8, 0x20#8, 0x3D#8] →
    b32Lut c = .skip ∧ charClass true c = .skip ∧ charClass false c = .bad) ∧
  (∀ c : Byte, ¬ (0x41#8 ≤ c ∧ c ≤ 0x5A#8) → ¬ (0x61#8 ≤ c ∧ c ≤ 0x7A#8) → ¬ (0x32#8 ≤ c ∧ c ≤ 0x37#8) →
    c ∉ [0x09#8, 0x0A#8, 0x0D#8, 0x20#8, 0x3D#8] → b32Lut c = .bad ∧ ∀ strip, charClass strip c = .bad)

/-- From 41_base32 section 3 (the accepted counts of R128, R131 and R132): with n value characters the leftover is 5n mod 8
bits; STRICT accepts n mod 8 = 0, LEGACY 0, 2, 5 and 7, which is when the original's nibble count floor(5n/4) is even, and
RFC every n; in LEGACY the bytes are the paired nibbles. -/
def Obligations.LegacyAcceptsWholeNibblePairs : Prop :=
  ∀ n : Nat,
    (lenOk .strict (5 * n % 8) = true ↔ n % 8 = 0) ∧
    (lenOk .legacy (5 * n % 8) = true ↔ n % 8 = 0 ∨ n % 8 = 2 ∨ n % 8 = 5 ∨ n % 8 = 7) ∧
    (lenOk .legacy (5 * n % 8) = true ↔ 5 * n / 4 % 2 = 0) ∧
    (lenOk .legacy (5 * n % 8) = true → 5 * n / 4 = 2 * (5 * n / 8)) ∧
    lenOk .rfc (5 * n % 8) = true

/-- From 41_base32 section 2 (R124): a string of characters none of which is BAD, decoded by BCHARs in a fresh session,
stages exactly the whole bytes of its bit string and keeps the rest in ACC. -/
def Obligations.StringStagesTheBytesOfItsBits : Prop :=
  ∀ (s : State) (l : Latch) (cs : List Byte),
    s.ksph = .b32 → s.kcnt = 0 → s.kraw = [] → s.nbits = 0 → s.acc = 0 →
    (∀ c ∈ cs, charClass l.ctrl.strip c ≠ .bad) →
    (bitsToBytes (charBits l.ctrl.strip cs)).length ≤ Config.maxKeyBytes →
    ∃ t, completeAll (cs.map (fun c => { word := encode (.bchar c), latch := l, delay := 0 })) s = .next t ∧
      t.ksph = .b32 ∧ SameError s t ∧ SameKey s t ∧ SameHmac s t ∧ SameDigest s t ∧
      t.kcnt = (bitsToBytes (charBits l.ctrl.strip cs)).length ∧
      t.kraw = (bitsToBytes (charBits l.ctrl.strip cs)).take 64 ∧
      (64 < t.kcnt → t.kctx = Sha1Ctx.init.absorbAll (bitsToBytes (charBits l.ctrl.strip cs))) ∧
      t.nbits = 5 * (charValues l.ctrl.strip cs).length % 8 ∧
      t.acc.toNat = bitsToNat ((charBits l.ctrl.strip cs).drop (8 * t.kcnt))

/-- From 42_key sections 1 and 2 (R140, R141, R143, R146): KBEGIN, one KBYTE per byte of the key, KEND, from any state,
commit the key's expansion, however it is streamed. -/
def Obligations.RawSessionCommitsTheExpandedKey : Prop :=
  ∀ (s : State) (l : Latch) (key : List Byte), key.length ≤ Config.maxKeyBytes →
    ∃ t, completeAll
        ({ word := encode .kbegin, latch := l, delay := 0 } ::
          (key.map (fun b => { word := encode (.kbyte b), latch := l, delay := 0 }) ++
            [{ word := encode .kend, latch := l, delay := 0 }])) s = .next t ∧
      t.kvalid = true ∧ t.kp = expandKey key ∧ t.klen = BitVec.ofNat 32 key.length ∧ t.hact = false ∧
      SessionClosed t ∧ SameError s t ∧ SameDigest s t

/-- From 42_key section 2 (R143, R144): K' is always 64 bytes; a key of 64 bytes is used as it is, a longer one is hashed and
padded; a trailing zero byte cannot be told from padding. -/
def Obligations.ExpandedKeysAreOneBlock : Prop :=
  (∀ key, (expandKey key).length = 64) ∧ expandKey [] = zeros 64 ∧
  (∀ key : List Byte, key.length = 64 → expandKey key = key) ∧
  (∀ key : List Byte, 64 < key.length → expandKey key = sha1 key ++ zeros 44) ∧
  (∀ key : List Byte, key.length < 64 → expandKey (key ++ [0x00#8]) = expandKey key)

/-! ### SHA-1 (43_sha1) -/

/-- From 43_sha1 section 2 (R165): the schedule has eighty words, begins with the block's sixteen, and continues by the
recurrence. -/
def Obligations.ScheduleFollowsItsRecurrence : Prop :=
  ∀ m : List Word, m.length = 16 →
    (schedule m).length = 80 ∧ (∀ t, t < 16 → (schedule m).getD t 0 = m.getD t 0) ∧
    ∀ t, 16 ≤ t → t < 80 →
      (schedule m).getD t 0 =
        ((schedule m).getD (t - 3) 0 ^^^ (schedule m).getD (t - 8) 0 ^^^ (schedule m).getD (t - 14) 0 ^^^
          (schedule m).getD (t - 16) 0).rotateLeft 1

/-- From 43_sha1 section 4 (R170, R171): the padded tail is one block up to 55 buffered bytes and two from 56 to 63; it begins
with the buffer and 0x80, ends with the bit count, big-endian, and is zero in between. -/
def Obligations.PaddingFillsOneOrTwoBlocks : Prop :=
  ∀ c : Sha1Ctx, c.buf.length ≤ 63 → c.cnt < 2 ^ 61 →
    (c.buf.length ≤ 55 → c.tail.length = 64) ∧ (56 ≤ c.buf.length → c.tail.length = 128) ∧
    c.tail.take (c.buf.length + 1) = c.buf ++ [0x80#8] ∧
    (∀ j, c.buf.length + 1 ≤ j → j < c.tail.length - 8 → c.tail[j]? = some 0x00#8) ∧
    c.tail.drop (c.tail.length - 8) = (List.range 8).map (fun j => BitVec.ofNat 8 (8 * c.cnt / 256 ^ (7 - j)))

/-- From 43_sha1 sections 1 and 4 (R163, R170, R173): absorbing byte by byte is hashing the padded message block by block. -/
def Obligations.StreamingHashIsBlockwiseHash : Prop :=
  ∀ m : List Byte,
    Sha1Ctx.init.absorbAll m =
      { h := compressBlocks (m.length / 64) sha1IV m, buf := m.drop (64 * (m.length / 64)), cnt := m.length } ∧
    sha1 m = (compressBlocks ((sha1Pad m).length / 64) sha1IV (sha1Pad m)).bytes

/-! ### HMAC (44_hmac) -/

/-- R193: HSTART records SEQUENCE with no committed key, else absorbs K' XOR 0x36 into a fresh inner hash and opens the
computation; a computation already open is discarded without an error. -/
def Obligations.HstartAbsorbsTheInnerKey : Prop :=
  ∀ s : State, ∃ t, exec .hstart s = .next t ∧ OnlyHmacAndError s t ∧
    (s.kvalid = false → ErrorRecorded .sequence 0x30#8 s t ∧ SameHmac s t) ∧
    (s.kvalid = true → SameError s t ∧ t.hact = true ∧ t.mcnt = 0 ∧ t.mlen = 0 ∧
      t.ictx = Sha1Ctx.init.absorbAll (s.kp.map (fun k => k ^^^ 0x36#8)))

/-- R194, R195, R196, with R198: MBYTE absorbs its byte, MWORD the four bytes of the latched DATA0, MCTR the eight of the
latched DATA1 and DATA0, most significant first; all bytes or none. -/
def Obligations.MessageCommandsAbsorbTheirBytes : Prop :=
  (∀ (b : Byte) (s : State), ∃ t, exec (.mbyte b) s = .next t ∧ OnlyHmacAndError s t ∧ MessageAbsorbed [b] 0x31#8 s t) ∧
  (∀ (s : State) (p : Pending), s.pend = some p → ∃ t, exec .mword s = .next t ∧ OnlyHmacAndError s t ∧
    MessageAbsorbed
      [p.latch.data0.extractLsb' 24 8, p.latch.data0.extractLsb' 16 8, p.latch.data0.extractLsb' 8 8,
        p.latch.data0.extractLsb' 0 8] 0x32#8 s t) ∧
  (∀ (s : State) (p : Pending), s.pend = some p → ∃ t, exec .mctr s = .next t ∧ OnlyHmacAndError s t ∧
    MessageAbsorbed
      [p.latch.data1.extractLsb' 24 8, p.latch.data1.extractLsb' 16 8, p.latch.data1.extractLsb' 8 8,
        p.latch.data1.extractLsb' 0 8, p.latch.data0.extractLsb' 24 8, p.latch.data0.extractLsb' 16 8,
        p.latch.data0.extractLsb' 8 8, p.latch.data0.extractLsb' 0 8] 0x33#8 s t)

/-- From 00_scope section 7 and 30_encoding section 2 (R13, R82): when DATA1 and DATA0 hold the two halves of a counter below
2^64, MCTR's operand is the counter's eight bytes, most significant first. -/
def Obligations.CounterOperandIsBigEndian : Prop :=
  ∀ (s : State) (p : Pending) (v : Nat), v < 2 ^ 64 → s.pend = some p →
    p.latch.data1 = BitVec.ofNat 32 (v / 2 ^ 32) → p.latch.data0 = BitVec.ofNat 32 (v % 2 ^ 32) →
    s.counterBytes = (List.range 8).map (fun j => BitVec.ofNat 8 (v / 256 ^ (7 - j)))

/-- R197: HFINISH records SEQUENCE with no open computation; it closes an open one and, unless ERR = 1, publishes the outer
hash of K' XOR 0x5C and the inner digest, DIGESTi big-endian. -/
def Obligations.HfinishPublishesTheOuterHash : Prop :=
  ∀ s : State, ∃ t, exec .hfinish s = .next t ∧
    SameConfig s t ∧ SameSession s t ∧ SameKey s t ∧ SameWorld s t ∧ t.mcnt = s.mcnt ∧ t.hact = false ∧
    (s.hact = false → ErrorRecorded .sequence 0x34#8 s t ∧ SameHmac s t ∧ SameDigest s t) ∧
    (s.hact = true → SameError s t ∧
      (s.err = true → SameDigest s t) ∧
      (s.err = false → t.dvalid = true ∧
        t.dig.bytes = sha1 (s.kp.map (fun k => k ^^^ 0x5C#8) ++ s.ictx.final)))

/-- From 44_hmac section 3 (R199) with R190 and R220: after a commit of key S, HSTART, any commands that offer the message M
and neither end nor restart the computation nor commit a key (a KEND or BEND that commits nothing may be among them), and
HFINISH publish HMAC(S, M), if no error is recorded when HFINISH completes; else they leave the digest as it was. -/
def Obligations.CommandSequenceComputesHmac : Prop :=
  ∀ (key msg : List Byte) (s : State) (first last : Pending) (between : List Pending),
    s.kvalid = true → s.kp = expandKey key →
    decode first.word = .command .hstart → decode last.word = .command .hfinish → msg.length ≤ Config.maxMsgBytes →
    ∃ t0, completeAll [first] s = .next t0 ∧ (offeredMessage between t0 = some msg →
      ∃ t u, completeAll between t0 = .next t ∧ completeAll [last] t = .next u ∧ u.hact = false ∧
        (t.err = false → u.dvalid = true ∧ u.dig.bytes = hmacSha1 key msg) ∧
        (t.err = true → SameDigest s u))

/-! ### Whole-machine rules about errors and results (60_exceptions, 10_state) -/

/-- From 10_state section 2 (R32), 40_control (R101) and 44_hmac section 2 (R197): DVALID and DIGEST0 to DIGEST4 are changed
only by SRST and by an HFINISH of an open computation with ERR = 0. -/
def Obligations.OnlyPublicationAndSrstChangeTheDigest : Prop :=
  ∀ (i : Instr) (s t : State), exec i s = .next t →
    SameDigest s t ∨ i = .srst ∨ (i = .hfinish ∧ s.hact = true ∧ s.err = false)

/-- From 42_key sections 1 and 2 (R140, R145, R146) and 41_base32 section 3 (R129): KVALID, KP and KLEN are changed only by
SRST, by a KEND of a raw session, and by a BEND of a Base32 session that passes the latched length rule and has a byte. -/
def Obligations.OnlyCommitAndSrstChangeTheKey : Prop :=
  ∀ (i : Instr) (s t : State), exec i s = .next t →
    SameKey s t ∨ i = .srst ∨ (i = .kend ∧ s.ksph = .raw) ∨
      (i = .bend ∧ s.ksph = .b32 ∧ lenOk s.latched.ctrl.mode s.nbits = true ∧ s.kcnt ≠ 0)

/-- From 10_state section 2 (R25, R29): no command changes CTRL, DATA0 or DATA1, nor what the host has read or will do. -/
def Obligations.NoCommandChangesConfiguration : Prop :=
  ∀ (i : Instr) (s t : State), exec i s = .next t → SameConfig s t ∧ SameWorld s t

/-- From 60_exceptions section 2 (R215, R216) and section 4 (R219): a command that records an error changes, beside the error
record, only what the table of R215 lists for its code; in a key session no byte is staged by the failing push or
character, and the characters of BWORD before the failing one have been decoded (R216). The value whose byte met the LENGTH
limit has left the accumulator as R123 orders it. With ERR = 1 already, a command that would record an error has all the
effect it has with ERR = 0, but for the error record, which stays (R219). NBITS is within R42. -/
def Obligations.ErrorsHaveTheListedEffect : Prop :=
  (∀ (i : Instr) (s t : State) (p : Pending), s.pend = some p → s.nbits ≤ 7 → exec i s = .next t →
    s.err = false → t.err = true →
    SameConfig s t ∧ SameWorld s t ∧ SameKey s t ∧ SameDigest s t ∧
    (t.errCode = .sequence → SameSession s t ∧ SameHmac s t) ∧
    (t.errCode = .invalidChar → SameHmac s t ∧ t.ksph = .failed ∧
      ∃ u c, ReachesChar i p.latch s u c ∧ charClass p.latch.ctrl.strip c = .bad ∧ SameStagedBytes u t ∧ SameBits u t) ∧
    (t.errCode = .fractional ∨ t.errCode = .empty → SameHmac s t ∧ SessionClosed t) ∧
    (t.errCode = .length →
      (SameHmac s t ∧ t.ksph = .failed ∧
        (((∃ b, i = .kbyte b) ∨ i = .kword) ∧ SameStagedBytes s t ∧ SameBits s t ∨
         ∃ u c v, ReachesChar i p.latch s u c ∧ charClass p.latch.ctrl.strip c = .value v ∧
           u.kcnt = Config.maxKeyBytes ∧ SameStagedBytes u t ∧ u.nbits = t.nbits + 3 ∧
           t.acc.toNat = (u.acc.toNat * 32 + v.toNat) % 2 ^ t.nbits)) ∨
      (((∃ b, i = .mbyte b) ∨ i = .mword ∨ i = .mctr) ∧ SameSession s t ∧ t.hact = false ∧ t.mcnt = s.mcnt)) ∧
    (t.errCode ≠ .none ∧ t.errCode ≠ .illegal ∧ t.errCode ≠ .busy)) ∧
  (∀ (i : Instr) (s t : State), s.err = true →
    exec i (s.withError false .none 0x00#8) = .next t → t.err = true →
    exec i s = .next (t.withError true s.errCode s.errOpc))

/-- R214: RecordError writes the code and the opcode only if ERR was 0, sets ERR, and changes nothing else. ERR is sticky:
through any step it stays 1 with the first error's code and opcode, unless the step completes ECLR or SRST or takes a reset.
-/
def Obligations.TheFirstErrorIsKept : Prop :=
  (∀ (code : ErrCode) (opc : Byte) (s : State), ErrorRecorded code opc s (recordError code opc s) ∧
    SameConfig s (recordError code opc s) ∧ SameSession s (recordError code opc s) ∧ SameKey s (recordError code opc s) ∧
    SameHmac s (recordError code opc s) ∧ SameDigest s (recordError code opc s) ∧ SameWorld s (recordError code opc s)) ∧
  ∀ s t : State, step s = .next t → s.err = true →
    (t.err = true ∧ t.errCode = s.errCode ∧ t.errOpc = s.errOpc) ∨
    (∃ p, EngineMoves p s ∧ (decode p.word = .command .eclr ∨ decode p.word = .command .srst)) ∨
    (∃ rest, (HostMoves s ∨ s.inReset = true) ∧ s.inputs = .assertReset :: rest)

/-- From 70_reset section 2 (R246): a command uses its latched operands; the live CTRL, DATA0 and DATA1 do not change what it
does. -/
def Obligations.LiveRegistersDoNotReachTheCommand : Prop :=
  ∀ (i : Instr) (s t : State) (p : Pending) (c : Ctrl) (d0 d1 : Word), s.pend = some p → exec i s = .next t →
    exec i (s.withLive c d0 d1) = .next (t.withLive c d0 d1)

/-- From 70_reset section 1 (R244) and 10_state section 3: the committed key cannot be read. Two states that differ only in
KP, in the inner hash that HSTART keyed with it, and in the digest read alike at every offset but those of the digest; over
any commands, completed one after the other, they stay two such states; and a digest that agrees goes on to agree as long as
none of the commands is HFINISH. -/
def Obligations.TheKeyIsSeenOnlyThroughTheDigest : Prop :=
  ∀ (s : State) (kp : List Byte) (ictx : Sha1Ctx) (dig : Hash),
    (∀ off, readReg off (s.withSecrets kp ictx dig) = readReg off s ∨
      (dig ≠ s.dig ∧ off ∈ [0x20, 0x24, 0x28, 0x2C, 0x30])) ∧
    ∀ (ps : List Pending) (t : State), completeAll ps s = .next t →
      ∃ kp' ictx' dig', completeAll ps (s.withSecrets kp ictx dig) = .next (t.withSecrets kp' ictx' dig') ∧
        (dig = s.dig → (∀ p ∈ ps, decode p.word ≠ .command .hfinish) → dig' = t.dig)

/-! ### The register window (10_state, 20_memory) -/

/-- From 20_memory section 2 (R62, R65): an admitted read of the host returns the register's value, which the host notes (log
13), and changes nothing of the block; a command in flight comes one host step nearer to its completion (log 1). -/
def Obligations.ReadReturnsTheRegister : Prop :=
  ∀ (s : State) (off : Nat) (rest : List Input), HostMoves s → off % 4 = 0 → off < 64 →
    s.inputs = .read (Config.base + off) 4 :: rest →
    step s = .next { s with
      inputs := rest
      reads := s.reads ++ [(off, readReg off s)]
      pend := s.pend.map (fun p => { p with delay := p.delay - 1 }) }

/-- From 10_state section 2 (R23 to R33): what each of the sixteen offsets reads; B32MODE reads 0 for STRICT, 1 for LEGACY, 2
for RFC. -/
def Obligations.RegisterMapReads : Prop :=
  ∀ s : State,
    readReg 0x00 s = 0x48534231 ∧ readReg 0x08 s = s.statusWord ∧ readReg 0x0C s = 0 ∧
    (s.ctrl.mode = .strict → (readReg 0x04 s).toNat = 4 * s.ctrl.strip.toNat) ∧
    (s.ctrl.mode = .legacy → (readReg 0x04 s).toNat = 4 * s.ctrl.strip.toNat + 1) ∧
    (s.ctrl.mode = .rfc → (readReg 0x04 s).toNat = 4 * s.ctrl.strip.toNat + 2) ∧
    readReg 0x10 s = s.data0 ∧ readReg 0x14 s = s.data1 ∧ readReg 0x18 s = s.klen ∧
    (readReg 0x1C s).toNat = s.mcnt % 2 ^ 32 ∧
    readReg 0x20 s = s.dig.h0 ∧ readReg 0x24 s = s.dig.h1 ∧ readReg 0x28 s = s.dig.h2 ∧
    readReg 0x2C s = s.dig.h3 ∧ readReg 0x30 s = s.dig.h4 ∧
    readReg 0x34 s = 0 ∧ readReg 0x38 s = 0 ∧ readReg 0x3C s = 0

/-- From 10_state section 2 (R27) and 60_exceptions section 1 (R211): the fields of STATUS, with the codes of KSPH and
ERRCODE in numbers. -/
def Obligations.StatusShowsItsFields : Prop :=
  ∀ s : State,
    s.statusWord.getLsbD 0 = s.busy ∧ s.statusWord.getLsbD 1 = s.kvalid ∧ s.statusWord.getLsbD 2 = s.dvalid ∧
    s.statusWord.getLsbD 3 = s.err ∧
    (s.ksph = .idle → s.statusWord.extractLsb' 4 2 = 0#2) ∧ (s.ksph = .raw → s.statusWord.extractLsb' 4 2 = 1#2) ∧
    (s.ksph = .b32 → s.statusWord.extractLsb' 4 2 = 2#2) ∧ (s.ksph = .failed → s.statusWord.extractLsb' 4 2 = 3#2) ∧
    s.statusWord.getLsbD 6 = s.hact ∧ s.statusWord.getLsbD 7 = decide (64 < s.kcnt) ∧
    s.statusWord.extractLsb' 8 3 = BitVec.ofNat 3 s.nbits ∧ s.statusWord.extractLsb' 11 5 = 0 ∧
    (s.errCode = .none → s.statusWord.extractLsb' 16 8 = 0x00#8) ∧
    (s.errCode = .illegal → s.statusWord.extractLsb' 16 8 = 0x01#8) ∧
    (s.errCode = .busy → s.statusWord.extractLsb' 16 8 = 0x02#8) ∧
    (s.errCode = .sequence → s.statusWord.extractLsb' 16 8 = 0x03#8) ∧
    (s.errCode = .invalidChar → s.statusWord.extractLsb' 16 8 = 0x10#8) ∧
    (s.errCode = .fractional → s.statusWord.extractLsb' 16 8 = 0x11#8) ∧
    (s.errCode = .empty → s.statusWord.extractLsb' 16 8 = 0x12#8) ∧
    (s.errCode = .length → s.statusWord.extractLsb' 16 8 = 0x20#8) ∧
    s.statusWord.extractLsb' 24 8 = s.errOpc

/-- R26: the CTRL write rule, at once, also while a command is in flight, whose word and copies stay. -/
def Obligations.CtrlWriteRule : Prop :=
  ∀ (s : State) (v : Word) (rest : List Input), HostMoves s → s.inputs = .write (Config.base + 0x04) 4 v :: rest →
    ∃ t, step s = .next t ∧ t.ctrl.strip = v.getLsbD 2 ∧
      (v.extractLsb' 0 2 = 0 → t.ctrl.mode = .strict) ∧ (v.extractLsb' 0 2 = 1 → t.ctrl.mode = .legacy) ∧
      (v.extractLsb' 0 2 = 2 → t.ctrl.mode = .rfc) ∧ (v.extractLsb' 0 2 = 3 → t.ctrl.mode = s.ctrl.mode) ∧
      (readReg 0x04 t).getLsbD 2 = v.getLsbD 2 ∧
      (v.extractLsb' 0 2 ≠ 3 → (readReg 0x04 t).extractLsb' 0 2 = v.extractLsb' 0 2) ∧
      (v.extractLsb' 0 2 = 3 → (readReg 0x04 t).extractLsb' 0 2 = (readReg 0x04 s).extractLsb' 0 2) ∧
      (readReg 0x04 t).extractLsb' 3 29 = 0 ∧ (readReg 0x04 t).extractLsb' 0 2 ≠ 3 ∧
      t.pend.map Pending.word = s.pend.map Pending.word ∧ t.pend.map Pending.latch = s.pend.map Pending.latch ∧
      t.data0 = s.data0 ∧ t.data1 = s.data1 ∧ t.inputs = rest ∧ t.reads = s.reads ∧ t.inReset = s.inReset ∧
      SameError s t ∧ SameSession s t ∧ SameKey s t ∧ SameHmac s t ∧ SameDigest s t

/-- From 20_memory section 2 and 10_state section 2 (R63, R29): a write to DATA0 or DATA1 stores the whole value at once, and
a write to any other offset but CTRL and CMD has no effect. -/
def Obligations.WritesReachOnlyTheWritableRegisters : Prop :=
  ∀ (s : State) (off : Nat) (v : Word) (rest : List Input), HostMoves s → off % 4 = 0 → off < 64 →
    off ≠ 0x04 → off ≠ 0x0C → s.inputs = .write (Config.base + off) 4 v :: rest →
    step s = .next { s with
      inputs := rest
      data0 := if off = 0x10 then v else s.data0
      data1 := if off = 0x14 then v else s.data1
      pend := s.pend.map (fun p => { p with delay := p.delay - 1 }) }

/-- R245, R246: a CMD write is accepted when BUSY = 0, with copies of CTRL, DATA0 and DATA1; while BUSY = 1 it is dropped and
records BUSY with its opcode field at once, and the command in flight is unaffected. -/
def Obligations.CmdWriteIsAcceptedOrDropped : Prop :=
  ∀ (s : State) (w : Word) (rest : List Input), HostMoves s → s.inputs = .write (Config.base + 0x0C) 4 w :: rest →
    ∃ t, step s = .next t ∧ t.ctrl = s.ctrl ∧ t.data0 = s.data0 ∧ t.data1 = s.data1 ∧
      SameSession s t ∧ SameKey s t ∧ SameHmac s t ∧ SameDigest s t ∧
      t.inReset = s.inReset ∧ t.inputs = rest ∧ t.reads = s.reads ∧
      (s.pend = none → SameError s t ∧
        ∃ p, t.pend = some p ∧ p.word = w ∧ p.latch = { ctrl := s.ctrl, data0 := s.data0, data1 := s.data1 }) ∧
      (∀ p, s.pend = some p → ErrorRecorded .busy (w.extractLsb' 24 8) s t ∧
        ∃ q, t.pend = some q ∧ q.word = p.word ∧ q.latch = p.latch)

/-- From 20_memory sections 1 and 2 and 70_reset section 1 (R61, R64, R240); the names of the stops are the model's choice,
logs 7, 8 and 9: an access outside the window, a narrow, wide or misaligned one, and any access while reset is asserted are
not admitted: the machine stops by name, with no next state. -/
def Obligations.AccessesNotAdmittedStop : Prop :=
  (∀ (s : State) (addr bytes : Nat) (v : Word) (rest : List Input), HostMoves s →
    s.inputs = .read addr bytes :: rest ∨ s.inputs = .write addr bytes v :: rest →
    (addr < Config.base ∨ Config.base + 64 ≤ addr → step s = .refused .outsideWindow) ∧
    (Config.base ≤ addr → addr < Config.base + 64 → bytes ≠ 4 ∨ addr % 4 ≠ 0 → step s = .fault .hostStuck)) ∧
  (∀ (s : State) (inp : Input) (rest : List Input), s.inReset = true → s.inputs = inp :: rest → IsAccess inp = true →
    step s = .refused .accessInReset)

/-- From 70_reset section 2 (R247, R248): between acceptance and completion, whatever the host does short of a reset, only ERR,
ERRCODE, ERROPC, CTRL, DATA0 and DATA1 can change; every other register reads as at acceptance, with BUSY = 1. The delay of
the command in flight counts down by one host step: that is the model's choice, log 1. -/
def Obligations.OnlyErrorAndLiveRegistersChangeInFlight : Prop :=
  ∀ (s t : State) (p : Pending) (inp : Input) (rest : List Input),
    s.inReset = false → s.pend = some p → p.delay ≠ 0 → s.inputs = inp :: rest → inp ≠ .assertReset →
    step s = .next t →
    t.pend = some { p with delay := p.delay - 1 } ∧ t.busy = true ∧
    SameSession s t ∧ SameKey s t ∧ SameHmac s t ∧ SameDigest s t ∧
    (∀ off ∈ [0x00, 0x0C, 0x18, 0x1C, 0x20, 0x24, 0x28, 0x2C, 0x30, 0x34, 0x38, 0x3C], readReg off t = readReg off s) ∧
    (readReg 0x08 t).extractLsb' 0 3 = (readReg 0x08 s).extractLsb' 0 3 ∧
    (readReg 0x08 t).extractLsb' 4 12 = (readReg 0x08 s).extractLsb' 4 12

/-! ### Steps, completion, reset (70_reset) -/

/-- From 70_reset section 2 (R247; which of the two agents moves is log 1): when the engine moves, the step applies the rule
of the pending word's command, then clears PEND and BUSY; nothing else is added around `exec`. -/
def Obligations.StepRunsThePendingCommand : Prop :=
  ∀ (s t : State) (p : Pending) (i : Instr), EngineMoves p s → decode p.word = .command i → exec i s = .next t →
    step s = .next { t with pend := none }

/-- From 70_reset section 4 (R254, R255): every accepted command completes. From any busy state whose remaining inputs are
admitted and assert no reset, after at most as many host steps as its delay the same word with the same copies is due, and
the next step has its effect and leaves nothing pending: exec of its command, or ILLEGAL. If the inputs do assert a reset,
BUSY is 0 within the same bound, by completion or because the reset discarded the command. The bound is the model's delay,
log 1. -/
def Obligations.EveryAcceptedCommandCompletes : Prop :=
  ∀ (s : State) (p : Pending), s.inReset = false → s.pend = some p → (∀ inp ∈ s.inputs, Admitted inp = true) →
    (∃ (n : Nat) (t : State), n ≤ p.delay + 1 ∧ Host.Core.run Sys2Proof.core n s = .next t ∧ t.busy = false) ∧
    (.assertReset ∉ s.inputs →
      ∃ (n : Nat) (u : State) (q : Pending) (t : State), n ≤ p.delay ∧ Host.Core.run Sys2Proof.core n s = .next u ∧
        EngineMoves q u ∧ q.word = p.word ∧ q.latch = p.latch ∧
        SameSession s u ∧ SameKey s u ∧ SameHmac s u ∧ SameDigest s u ∧
        Host.Core.run Sys2Proof.core (n + 1) s = .next t ∧
        (∀ i, decode p.word = .command i → ∃ v, exec i u = .next v ∧ t = { v with pend := none }) ∧
        ((∀ i, decode p.word ≠ .command i) → ErrorRecorded .illegal (opcField p.word) u t ∧ t.pend = none ∧
          SameSession u t ∧ SameKey u t ∧ SameHmac u t ∧ SameDigest u t))

/-- From 30_encoding section 4 (R89): a command statement polls first, so its CMD write is never dropped: from any state out
of reset, it reaches a state in which its own word is the pending command. -/
def Obligations.CommandStatementsAreNeverDropped : Prop :=
  ∀ (s : State) (m : Mnemonic) (imm : Nat) (rest : List Input), s.inReset = false →
    s.inputs = asmCmd m imm ++ rest →
    ∃ n t p, Host.Core.run Sys2Proof.core n s = .next t ∧ t.inputs = rest ∧ t.pend = some p ∧
      p.word = encodeParts m (BitVec.ofNat 8 imm) ∧
      p.latch = { ctrl := s.ctrl, data0 := s.data0, data1 := s.data1 }

/-- From 60_exceptions section 1 (R210: no traps): no command stops the machine, and no admitted input does. -/
def Obligations.AdmittedStepsNeverStop : Prop :=
  ∀ s : State, (s.inReset = false → ∀ inp, s.inputs.head? = some inp → Admitted inp = true) →
    (s.inReset = true → ∀ inp, s.inputs.head? = some inp → IsAccess inp = false) →
    ∃ t, step s = .next t

/-- R44: the state right after reset, and what the sixteen registers read in it. -/
def Obligations.ResetStateIsAsListed : Prop :=
  AtResetValues State.reset ∧ readReg 0x00 State.reset = 0x48534231 ∧ readReg 0x04 State.reset = 0x00000004 ∧
  ∀ off ∈ [0x08, 0x0C, 0x10, 0x14, 0x18, 0x1C, 0x20, 0x24, 0x28, 0x2C, 0x30, 0x34, 0x38, 0x3C],
    readReg off State.reset = 0

/-- From 70_reset section 1 (R240): asserting reset, in any state in which the inputs move, gives every field its reset value
and discards a command in flight without an error; releasing it changes only the level of the input, and leaves the block,
which held its reset values, idle (BUSY = 0) with the host to move. That a command already due completes before the reset is
taken (the hypothesis HostMoves) is the model's choice, log 9. -/
def Obligations.ResetInputTakesResetValues : Prop :=
  (∀ (s : State) (rest : List Input), HostMoves s ∨ s.inReset = true → s.inputs = .assertReset :: rest →
    ∃ t, step s = .next t ∧ AtResetValues t ∧ t.inReset = true ∧ t.inputs = rest ∧ t.reads = s.reads) ∧
  (∀ (s : State) (rest : List Input), s.inReset = true → s.inputs = .releaseReset :: rest →
    step s = .next { s with inReset := false, inputs := rest }) ∧
  (∀ (s : State) (rest : List Input), s.inReset = true → AtResetValues s → s.inputs = .releaseReset :: rest →
    ∃ t, step s = .next t ∧ AtResetValues t ∧ t.busy = false ∧ HostMoves t ∧ t.inputs = rest ∧ t.reads = s.reads)

/-! ### Invariants that every step keeps -/

/-- From 70_reset section 1 (R240): while reset is asserted every field holds its reset value: every step keeps that. -/
def Obligations.ResetHoldsItsValues : Prop :=
  ∀ s t : State, (s.inReset = true → AtResetValues s) → step s = .next t → (t.inReset = true → AtResetValues t)

/-- From 10_state section 3 (R42): every step keeps the seven invariants of R42. -/
def Obligations.StepKeepsTheStatusInvariants : Prop :=
  ∀ s t : State, StatusInv s → step s = .next t → StatusInv t

/-- The seven invariants hold at reset (10_state section 5). -/
def Obligations.ResetMeetsTheStatusInvariants : Prop := StatusInv State.reset

/-- From 10_state section 3 (R34, R37, R39, R40): every step keeps the bounds on the sizes of the state: KRAW has min(KCNT,
64) bytes, ACC is below 2^NBITS, the counts are within their limits and the live contexts count what was absorbed. -/
def Obligations.StepKeepsTheSizes : Prop :=
  ∀ s t : State, SizeInv s → step s = .next t → SizeInv t

/-- The bounds hold at reset (KP's 64 zero bytes there are the model's choice, log 4). -/
def Obligations.ResetMeetsTheSizes : Prop := SizeInv State.reset

/-- From 10_state R38 and 44_hmac section 3: in every state reached from one that has it, the staged fields are those of some
byte sequence, the committed key is some key's expansion, and the inner hash is that of the key and some message. -/
def Obligations.StepKeepsTheAbstractView : Prop :=
  ∀ s t : State, AbstractInv s → step s = .next t → AbstractInv t

/-- The abstract view holds at reset. -/
def Obligations.ResetMeetsTheAbstractView : Prop := AbstractInv State.reset

/-- From 44_hmac section 3 (R190, R197, R199): in a state with the abstract view, the digest a publishing HFINISH publishes is
the HMAC of a key that expands to KP with length KLEN, and of a message of MCNT bytes that the inner hash absorbed. -/
def Obligations.PublishedDigestsAreHmacs : Prop :=
  ∀ s t : State, AbstractInv s → s.kvalid = true → s.hact = true → s.err = false → exec .hfinish s = .next t →
    ∃ key msg : List Byte, s.kp = expandKey key ∧ s.klen = BitVec.ofNat 32 key.length ∧
      msg.length = s.mcnt ∧ s.ictx = Sha1Ctx.init.absorbAll (innerKey s.kp ++ msg) ∧
      t.dvalid = true ∧ t.dig.bytes = hmacSha1 key msg

/-! ### The host's reference functions (00_scope section 7) -/

/-- From 00_scope section 7 (R14 to R16): the truncation window lies inside the twenty bytes, the truncated value is its
big-endian value with the top bit cleared, and the code is six characters, each one of 0 to 9, that spell it modulo 1000000. -/
def Obligations.TruncationStaysInsideTheDigest : Prop :=
  ∀ d : List Byte, d.length = 20 →
    truncOffset d = (d.getD 19 0).toNat % 16 ∧ truncOffset d + 3 < d.length ∧
    truncatedValue d =
      ((d.getD (truncOffset d) 0).toNat % 128) * 2 ^ 24 + (d.getD (truncOffset d + 1) 0).toNat * 2 ^ 16 +
        (d.getD (truncOffset d + 2) 0).toNat * 2 ^ 8 + (d.getD (truncOffset d + 3) 0).toNat ∧
    (otpString d).length = 6 ∧ (∀ ch ∈ otpString d, '0' ≤ ch ∧ ch ≤ '9') ∧
    (otpString d).foldl (fun n ch => 10 * n + (ch.toNat - 0x30)) 0 = truncatedValue d % 1000000

/-- From 00_scope section 7 (R12, R17): the seconds to the next step are 1 to 30, and within them the counter, hence the
code, stays. -/
def Obligations.CounterStaysWithinItsStep : Prop :=
  ∀ t : Nat, 1 ≤ secondsUntilNextStep t ∧ secondsUntilNextStep t ≤ 30 ∧
    (∀ k, k < secondsUntilNextStep t → timeCounter (t + k) = timeCounter t) ∧
    timeCounter (t + secondsUntilNextStep t) = timeCounter t + 1

/-! ### Host statements (30_encoding section 4) -/

/-- From 30_encoding section 4 (R89): a command statement assembles to POLL and a write to CMD of OPC(OP) * 2^24 + imm, imm
being 0 when absent; an imm written for a command without an IMM8 operand, or one above 255, is an assembly error. A program
that holds an ill-formed statement is an assembly error as a whole; any other is put after what the host has still to do.
That there are two reasons and what they are called, and that a program is refused whole, are the model's (log 17). -/
def Obligations.CommandStatementsAssembleOrAreRefused : Prop :=
  (∀ p ∈ ([(.NOP, 0x00), (.SRST, 0x01), (.ECLR, 0x02), (.KBEGIN, 0x10), (.KBYTE, 0x11), (.KWORD, 0x12), (.KEND, 0x13),
      (.BBEGIN, 0x20), (.BCHAR, 0x21), (.BWORD, 0x22), (.BEND, 0x23), (.HSTART, 0x30), (.MBYTE, 0x31), (.MWORD, 0x32),
      (.MCTR, 0x33), (.HFINISH, 0x34)] : List (Mnemonic × Nat)),
    assemble (.cmd p.1 none) = .ok [.poll, .write (Config.base + 0x0C) 4 (BitVec.ofNat 32 (p.2 * 2 ^ 24))] ∧
    ∀ imm : Nat,
      (p.1 ∉ [.KBYTE, .BCHAR, .MBYTE] → assemble (.cmd p.1 (some imm)) = .error .immNotTaken) ∧
      (p.1 ∈ [.KBYTE, .BCHAR, .MBYTE] → imm < 256 →
        assemble (.cmd p.1 (some imm)) =
          .ok [.poll, .write (Config.base + 0x0C) 4 (BitVec.ofNat 32 (p.2 * 2 ^ 24 + imm))]) ∧
      (p.1 ∈ [.KBYTE, .BCHAR, .MBYTE] → 256 ≤ imm → assemble (.cmd p.1 (some imm)) = .error .immTooWide)) ∧
  ∀ (prog : List Stmt) (s : State),
    ((∃ st ∈ prog, st.error ≠ none) → ∃ e, s.withProgram prog = .error e) ∧
    ((∀ st ∈ prog, st.error = none) → s.withProgram prog = .ok { s with inputs := s.inputs ++ prog.flatMap expansion })
end

