-- ==== Sys2Proof/Laws/Asm.lean ====
section
/-! SUPPORT. When a statement and a program assemble, and to what (30_encoding R88 to R90). -/

namespace Sys2Proof.Machine

/-- A statement with an error does not assemble. -/
theorem assemble_of_error {st : Stmt} {e : StmtError} (h : st.error = some e) : assemble st = .error e := by
  simp [assemble, h]

/-- A statement without one assembles to its expansion. -/
theorem assemble_of_none {st : Stmt} (h : st.error = none) : assemble st = .ok (expansion st) := by
  simp [assemble, h]

/-- Everything assembling a program can do: the error of some statement of it, or every statement's expansion, in order. -/
theorem assembleProgram_cases (prog : List Stmt) :
    (∃ st ∈ prog, ∃ e, st.error = some e ∧ assembleProgram prog = .error e) ∨
    ((∀ st ∈ prog, st.error = none) ∧ assembleProgram prog = .ok (prog.flatMap expansion)) := by
  induction prog with
  | nil => exact .inr ⟨by simp, rfl⟩
  | cons st rest ih =>
    cases h : st.error with
    | some e => exact .inl ⟨st, by simp, e, h, by simp [assembleProgram, assemble_of_error h]⟩
    | none =>
      obtain ⟨st', hm, e, he, hp⟩ | ⟨hm, hp⟩ := ih
      · exact .inl ⟨st', by simp [hm], e, he, by simp [assembleProgram, assemble_of_none h, hp]⟩
      · exact .inr ⟨by simpa [h] using hm, by simp [assembleProgram, assemble_of_none h, hp]⟩

end Sys2Proof.Machine
end

