-- ==== Sys2Proof/Laws/Bits.lean ====
section
/-! SUPPORT. Byte order: the lengths of the byte lists, and that big-endian words and their bytes are inverse. -/

namespace Sys2Proof.Machine

@[simp] theorem be32Bytes_length (w : Word) : (be32Bytes w).length = 4 := rfl

@[simp] theorem be64Bytes_length (n : Nat) : (be64Bytes n).length = 8 := rfl

@[simp] theorem zeros_length (n : Nat) : (zeros n).length = n := List.length_replicate

@[simp] theorem hash_bytes_length (h : Hash) : h.bytes.length = 20 := rfl

@[simp] theorem final_length (c : Sha1Ctx) : c.final.length = 20 := rfl

@[simp] theorem sha1_length (m : List Byte) : (sha1 m).length = 20 := rfl

/-- A word is the big-endian reading of its bytes (R7). -/
theorem be32_of_bytes (w : Word) :
    be32 (w.extractLsb' 24 8) (w.extractLsb' 16 8) (w.extractLsb' 8 8) (w.extractLsb' 0 8) = w := by
  apply BitVec.eq_of_getLsbD_eq
  intro i hi
  simp only [be32, BitVec.getLsbD_or, BitVec.getLsbD_shiftLeft, BitVec.getLsbD_setWidth, BitVec.getLsbD_extractLsb']
  interval_cases i <;> simp

/-- Five words are the big-endian reading of their twenty bytes (10_state R32). -/
theorem hash_ofBytes_bytes (h : Hash) : Hash.ofBytes h.bytes = h := by
  cases h
  simp [Hash.ofBytes, Hash.bytes, be32Bytes, be32_of_bytes]

end Sys2Proof.Machine
end

