-- ==== Sys2Proof/Laws/Sha1.lean ====
section
/-! SUPPORT. The SHA-1 context: what absorbing does to the count and the buffer (43_sha1 R163). -/

namespace Sys2Proof.Machine

@[simp] theorem absorb_cnt (c : Sha1Ctx) (b : Byte) : (c.absorb b).cnt = c.cnt + 1 := by
  unfold Sha1Ctx.absorb; split <;> rfl

/-- `|BUF| = CNT mod 64` is kept by absorbing (R163). -/
theorem absorb_buf_length {c : Sha1Ctx} (h : c.buf.length = c.cnt % 64) (b : Byte) :
    (c.absorb b).buf.length = (c.absorb b).cnt % 64 := by
  unfold Sha1Ctx.absorb
  split
  · simp only [List.length_nil]; omega
  · simp only [List.length_append, List.length_singleton]; omega

@[simp] theorem absorbAll_nil (c : Sha1Ctx) : c.absorbAll [] = c := rfl

@[simp] theorem absorbAll_cons (c : Sha1Ctx) (b : Byte) (bs : List Byte) :
    c.absorbAll (b :: bs) = (c.absorb b).absorbAll bs := rfl

theorem absorbAll_append (c : Sha1Ctx) (xs ys : List Byte) :
    c.absorbAll (xs ++ ys) = (c.absorbAll xs).absorbAll ys := List.foldl_append

@[simp] theorem absorbAll_cnt (c : Sha1Ctx) (bs : List Byte) : (c.absorbAll bs).cnt = c.cnt + bs.length := by
  induction bs generalizing c with
  | nil => rfl
  | cons b bs ih => rw [absorbAll_cons, ih, absorb_cnt, List.length_cons]; omega

theorem absorbAll_buf_length {c : Sha1Ctx} (h : c.buf.length = c.cnt % 64) (bs : List Byte) :
    (c.absorbAll bs).buf.length = (c.absorbAll bs).cnt % 64 := by
  induction bs generalizing c with
  | nil => exact h
  | cons b bs ih => exact ih (absorb_buf_length h b)

/-- Absorbing keeps a context within the bounds of R34 as long as the count does. -/
theorem absorbAll_wf {c : Sha1Ctx} (h : c.Wf) (bs : List Byte) (hlt : c.cnt + bs.length < 2 ^ 61) :
    (c.absorbAll bs).Wf :=
  ⟨absorbAll_buf_length h.buf_len bs, by rw [absorbAll_cnt]; exact hlt⟩

/-- `Sha1Init()` is within the bounds of R34. -/
theorem init_wf : Sha1Ctx.init.Wf := ⟨rfl, by decide⟩

end Sys2Proof.Machine
end

