-- ==== Sys2Proof/Laws/State.lean ====
section
/-! SUPPORT. One lemma per field per update: what each shared operation leaves as it was, and the values it writes. Later
proofs cite these and do not unfold a record update. -/

namespace Sys2Proof.Machine

/-! ### What each operation leaves unchanged -/

@[simp] theorem recordError_ctrl (c : ErrCode) (o : Byte) (s : State) : (recordError c o s).ctrl = s.ctrl := by unfold recordError; split <;> rfl
@[simp] theorem recordError_data0 (c : ErrCode) (o : Byte) (s : State) : (recordError c o s).data0 = s.data0 := by unfold recordError; split <;> rfl
@[simp] theorem recordError_data1 (c : ErrCode) (o : Byte) (s : State) : (recordError c o s).data1 = s.data1 := by unfold recordError; split <;> rfl
@[simp] theorem recordError_pend (c : ErrCode) (o : Byte) (s : State) : (recordError c o s).pend = s.pend := by unfold recordError; split <;> rfl
@[simp] theorem recordError_ksph (c : ErrCode) (o : Byte) (s : State) : (recordError c o s).ksph = s.ksph := by unfold recordError; split <;> rfl
@[simp] theorem recordError_kraw (c : ErrCode) (o : Byte) (s : State) : (recordError c o s).kraw = s.kraw := by unfold recordError; split <;> rfl
@[simp] theorem recordError_kcnt (c : ErrCode) (o : Byte) (s : State) : (recordError c o s).kcnt = s.kcnt := by unfold recordError; split <;> rfl
@[simp] theorem recordError_kctx (c : ErrCode) (o : Byte) (s : State) : (recordError c o s).kctx = s.kctx := by unfold recordError; split <;> rfl
@[simp] theorem recordError_acc (c : ErrCode) (o : Byte) (s : State) : (recordError c o s).acc = s.acc := by unfold recordError; split <;> rfl
@[simp] theorem recordError_nbits (c : ErrCode) (o : Byte) (s : State) : (recordError c o s).nbits = s.nbits := by unfold recordError; split <;> rfl
@[simp] theorem recordError_kvalid (c : ErrCode) (o : Byte) (s : State) : (recordError c o s).kvalid = s.kvalid := by unfold recordError; split <;> rfl
@[simp] theorem recordError_kp (c : ErrCode) (o : Byte) (s : State) : (recordError c o s).kp = s.kp := by unfold recordError; split <;> rfl
@[simp] theorem recordError_klen (c : ErrCode) (o : Byte) (s : State) : (recordError c o s).klen = s.klen := by unfold recordError; split <;> rfl
@[simp] theorem recordError_hact (c : ErrCode) (o : Byte) (s : State) : (recordError c o s).hact = s.hact := by unfold recordError; split <;> rfl
@[simp] theorem recordError_ictx (c : ErrCode) (o : Byte) (s : State) : (recordError c o s).ictx = s.ictx := by unfold recordError; split <;> rfl
@[simp] theorem recordError_mcnt (c : ErrCode) (o : Byte) (s : State) : (recordError c o s).mcnt = s.mcnt := by unfold recordError; split <;> rfl
@[simp] theorem recordError_dvalid (c : ErrCode) (o : Byte) (s : State) : (recordError c o s).dvalid = s.dvalid := by unfold recordError; split <;> rfl
@[simp] theorem recordError_dig (c : ErrCode) (o : Byte) (s : State) : (recordError c o s).dig = s.dig := by unfold recordError; split <;> rfl
@[simp] theorem recordError_inReset (c : ErrCode) (o : Byte) (s : State) : (recordError c o s).inReset = s.inReset := by unfold recordError; split <;> rfl
@[simp] theorem recordError_inputs (c : ErrCode) (o : Byte) (s : State) : (recordError c o s).inputs = s.inputs := by unfold recordError; split <;> rfl
@[simp] theorem recordError_reads (c : ErrCode) (o : Byte) (s : State) : (recordError c o s).reads = s.reads := by unfold recordError; split <;> rfl
@[simp] theorem recordError_freeCount (c : ErrCode) (o : Byte) (s : State) : (recordError c o s).freeCount = s.freeCount := by unfold recordError; split <;> rfl

@[simp] theorem clearError_ctrl (s : State) : (clearError s).ctrl = s.ctrl := rfl
@[simp] theorem clearError_data0 (s : State) : (clearError s).data0 = s.data0 := rfl
@[simp] theorem clearError_data1 (s : State) : (clearError s).data1 = s.data1 := rfl
@[simp] theorem clearError_pend (s : State) : (clearError s).pend = s.pend := rfl
@[simp] theorem clearError_ksph (s : State) : (clearError s).ksph = s.ksph := rfl
@[simp] theorem clearError_kraw (s : State) : (clearError s).kraw = s.kraw := rfl
@[simp] theorem clearError_kcnt (s : State) : (clearError s).kcnt = s.kcnt := rfl
@[simp] theorem clearError_kctx (s : State) : (clearError s).kctx = s.kctx := rfl
@[simp] theorem clearError_acc (s : State) : (clearError s).acc = s.acc := rfl
@[simp] theorem clearError_nbits (s : State) : (clearError s).nbits = s.nbits := rfl
@[simp] theorem clearError_kvalid (s : State) : (clearError s).kvalid = s.kvalid := rfl
@[simp] theorem clearError_kp (s : State) : (clearError s).kp = s.kp := rfl
@[simp] theorem clearError_klen (s : State) : (clearError s).klen = s.klen := rfl
@[simp] theorem clearError_hact (s : State) : (clearError s).hact = s.hact := rfl
@[simp] theorem clearError_ictx (s : State) : (clearError s).ictx = s.ictx := rfl
@[simp] theorem clearError_mcnt (s : State) : (clearError s).mcnt = s.mcnt := rfl
@[simp] theorem clearError_dvalid (s : State) : (clearError s).dvalid = s.dvalid := rfl
@[simp] theorem clearError_dig (s : State) : (clearError s).dig = s.dig := rfl
@[simp] theorem clearError_inReset (s : State) : (clearError s).inReset = s.inReset := rfl
@[simp] theorem clearError_inputs (s : State) : (clearError s).inputs = s.inputs := rfl
@[simp] theorem clearError_reads (s : State) : (clearError s).reads = s.reads := rfl
@[simp] theorem clearError_freeCount (s : State) : (clearError s).freeCount = s.freeCount := rfl

@[simp] theorem clearStaging_ctrl (s : State) : (clearStaging s).ctrl = s.ctrl := rfl
@[simp] theorem clearStaging_data0 (s : State) : (clearStaging s).data0 = s.data0 := rfl
@[simp] theorem clearStaging_data1 (s : State) : (clearStaging s).data1 = s.data1 := rfl
@[simp] theorem clearStaging_pend (s : State) : (clearStaging s).pend = s.pend := rfl
@[simp] theorem clearStaging_err (s : State) : (clearStaging s).err = s.err := rfl
@[simp] theorem clearStaging_errCode (s : State) : (clearStaging s).errCode = s.errCode := rfl
@[simp] theorem clearStaging_errOpc (s : State) : (clearStaging s).errOpc = s.errOpc := rfl
@[simp] theorem clearStaging_ksph (s : State) : (clearStaging s).ksph = s.ksph := rfl
@[simp] theorem clearStaging_kvalid (s : State) : (clearStaging s).kvalid = s.kvalid := rfl
@[simp] theorem clearStaging_kp (s : State) : (clearStaging s).kp = s.kp := rfl
@[simp] theorem clearStaging_klen (s : State) : (clearStaging s).klen = s.klen := rfl
@[simp] theorem clearStaging_hact (s : State) : (clearStaging s).hact = s.hact := rfl
@[simp] theorem clearStaging_ictx (s : State) : (clearStaging s).ictx = s.ictx := rfl
@[simp] theorem clearStaging_mcnt (s : State) : (clearStaging s).mcnt = s.mcnt := rfl
@[simp] theorem clearStaging_dvalid (s : State) : (clearStaging s).dvalid = s.dvalid := rfl
@[simp] theorem clearStaging_dig (s : State) : (clearStaging s).dig = s.dig := rfl
@[simp] theorem clearStaging_inReset (s : State) : (clearStaging s).inReset = s.inReset := rfl
@[simp] theorem clearStaging_inputs (s : State) : (clearStaging s).inputs = s.inputs := rfl
@[simp] theorem clearStaging_reads (s : State) : (clearStaging s).reads = s.reads := rfl

@[simp] theorem endSession_ctrl (s : State) : (endSession s).ctrl = s.ctrl := rfl
@[simp] theorem endSession_data0 (s : State) : (endSession s).data0 = s.data0 := rfl
@[simp] theorem endSession_data1 (s : State) : (endSession s).data1 = s.data1 := rfl
@[simp] theorem endSession_pend (s : State) : (endSession s).pend = s.pend := rfl
@[simp] theorem endSession_err (s : State) : (endSession s).err = s.err := rfl
@[simp] theorem endSession_errCode (s : State) : (endSession s).errCode = s.errCode := rfl
@[simp] theorem endSession_errOpc (s : State) : (endSession s).errOpc = s.errOpc := rfl
@[simp] theorem endSession_kvalid (s : State) : (endSession s).kvalid = s.kvalid := rfl
@[simp] theorem endSession_kp (s : State) : (endSession s).kp = s.kp := rfl
@[simp] theorem endSession_klen (s : State) : (endSession s).klen = s.klen := rfl
@[simp] theorem endSession_hact (s : State) : (endSession s).hact = s.hact := rfl
@[simp] theorem endSession_ictx (s : State) : (endSession s).ictx = s.ictx := rfl
@[simp] theorem endSession_mcnt (s : State) : (endSession s).mcnt = s.mcnt := rfl
@[simp] theorem endSession_dvalid (s : State) : (endSession s).dvalid = s.dvalid := rfl
@[simp] theorem endSession_dig (s : State) : (endSession s).dig = s.dig := rfl
@[simp] theorem endSession_inReset (s : State) : (endSession s).inReset = s.inReset := rfl
@[simp] theorem endSession_inputs (s : State) : (endSession s).inputs = s.inputs := rfl
@[simp] theorem endSession_reads (s : State) : (endSession s).reads = s.reads := rfl

@[simp] theorem closeHmac_ctrl (s : State) : (closeHmac s).ctrl = s.ctrl := rfl
@[simp] theorem closeHmac_data0 (s : State) : (closeHmac s).data0 = s.data0 := rfl
@[simp] theorem closeHmac_data1 (s : State) : (closeHmac s).data1 = s.data1 := rfl
@[simp] theorem closeHmac_pend (s : State) : (closeHmac s).pend = s.pend := rfl
@[simp] theorem closeHmac_err (s : State) : (closeHmac s).err = s.err := rfl
@[simp] theorem closeHmac_errCode (s : State) : (closeHmac s).errCode = s.errCode := rfl
@[simp] theorem closeHmac_errOpc (s : State) : (closeHmac s).errOpc = s.errOpc := rfl
@[simp] theorem closeHmac_ksph (s : State) : (closeHmac s).ksph = s.ksph := rfl
@[simp] theorem closeHmac_kraw (s : State) : (closeHmac s).kraw = s.kraw := rfl
@[simp] theorem closeHmac_kcnt (s : State) : (closeHmac s).kcnt = s.kcnt := rfl
@[simp] theorem closeHmac_kctx (s : State) : (closeHmac s).kctx = s.kctx := rfl
@[simp] theorem closeHmac_acc (s : State) : (closeHmac s).acc = s.acc := rfl
@[simp] theorem closeHmac_nbits (s : State) : (closeHmac s).nbits = s.nbits := rfl
@[simp] theorem closeHmac_kvalid (s : State) : (closeHmac s).kvalid = s.kvalid := rfl
@[simp] theorem closeHmac_kp (s : State) : (closeHmac s).kp = s.kp := rfl
@[simp] theorem closeHmac_klen (s : State) : (closeHmac s).klen = s.klen := rfl
@[simp] theorem closeHmac_mcnt (s : State) : (closeHmac s).mcnt = s.mcnt := rfl
@[simp] theorem closeHmac_dvalid (s : State) : (closeHmac s).dvalid = s.dvalid := rfl
@[simp] theorem closeHmac_dig (s : State) : (closeHmac s).dig = s.dig := rfl
@[simp] theorem closeHmac_inReset (s : State) : (closeHmac s).inReset = s.inReset := rfl
@[simp] theorem closeHmac_inputs (s : State) : (closeHmac s).inputs = s.inputs := rfl
@[simp] theorem closeHmac_reads (s : State) : (closeHmac s).reads = s.reads := rfl

@[simp] theorem commit_ctrl (s : State) : (commit s).ctrl = s.ctrl := rfl
@[simp] theorem commit_data0 (s : State) : (commit s).data0 = s.data0 := rfl
@[simp] theorem commit_data1 (s : State) : (commit s).data1 = s.data1 := rfl
@[simp] theorem commit_pend (s : State) : (commit s).pend = s.pend := rfl
@[simp] theorem commit_err (s : State) : (commit s).err = s.err := rfl
@[simp] theorem commit_errCode (s : State) : (commit s).errCode = s.errCode := rfl
@[simp] theorem commit_errOpc (s : State) : (commit s).errOpc = s.errOpc := rfl
@[simp] theorem commit_mcnt (s : State) : (commit s).mcnt = s.mcnt := rfl
@[simp] theorem commit_dvalid (s : State) : (commit s).dvalid = s.dvalid := rfl
@[simp] theorem commit_dig (s : State) : (commit s).dig = s.dig := rfl
@[simp] theorem commit_inReset (s : State) : (commit s).inReset = s.inReset := rfl
@[simp] theorem commit_inputs (s : State) : (commit s).inputs = s.inputs := rfl
@[simp] theorem commit_reads (s : State) : (commit s).reads = s.reads := rfl

@[simp] theorem retire_ctrl (s : State) : (retire s).ctrl = s.ctrl := rfl
@[simp] theorem retire_data0 (s : State) : (retire s).data0 = s.data0 := rfl
@[simp] theorem retire_data1 (s : State) : (retire s).data1 = s.data1 := rfl
@[simp] theorem retire_err (s : State) : (retire s).err = s.err := rfl
@[simp] theorem retire_errCode (s : State) : (retire s).errCode = s.errCode := rfl
@[simp] theorem retire_errOpc (s : State) : (retire s).errOpc = s.errOpc := rfl
@[simp] theorem retire_ksph (s : State) : (retire s).ksph = s.ksph := rfl
@[simp] theorem retire_kraw (s : State) : (retire s).kraw = s.kraw := rfl
@[simp] theorem retire_kcnt (s : State) : (retire s).kcnt = s.kcnt := rfl
@[simp] theorem retire_kctx (s : State) : (retire s).kctx = s.kctx := rfl
@[simp] theorem retire_acc (s : State) : (retire s).acc = s.acc := rfl
@[simp] theorem retire_nbits (s : State) : (retire s).nbits = s.nbits := rfl
@[simp] theorem retire_kvalid (s : State) : (retire s).kvalid = s.kvalid := rfl
@[simp] theorem retire_kp (s : State) : (retire s).kp = s.kp := rfl
@[simp] theorem retire_klen (s : State) : (retire s).klen = s.klen := rfl
@[simp] theorem retire_hact (s : State) : (retire s).hact = s.hact := rfl
@[simp] theorem retire_ictx (s : State) : (retire s).ictx = s.ictx := rfl
@[simp] theorem retire_mcnt (s : State) : (retire s).mcnt = s.mcnt := rfl
@[simp] theorem retire_dvalid (s : State) : (retire s).dvalid = s.dvalid := rfl
@[simp] theorem retire_dig (s : State) : (retire s).dig = s.dig := rfl
@[simp] theorem retire_inReset (s : State) : (retire s).inReset = s.inReset := rfl
@[simp] theorem retire_inputs (s : State) : (retire s).inputs = s.inputs := rfl
@[simp] theorem retire_reads (s : State) : (retire s).reads = s.reads := rfl
@[simp] theorem retire_freeCount (s : State) : (retire s).freeCount = s.freeCount := rfl

@[simp] theorem noteRead_ctrl (off : Nat) (s : State) : (noteRead off s).ctrl = s.ctrl := rfl
@[simp] theorem noteRead_data0 (off : Nat) (s : State) : (noteRead off s).data0 = s.data0 := rfl
@[simp] theorem noteRead_data1 (off : Nat) (s : State) : (noteRead off s).data1 = s.data1 := rfl
@[simp] theorem noteRead_pend (off : Nat) (s : State) : (noteRead off s).pend = s.pend := rfl
@[simp] theorem noteRead_err (off : Nat) (s : State) : (noteRead off s).err = s.err := rfl
@[simp] theorem noteRead_errCode (off : Nat) (s : State) : (noteRead off s).errCode = s.errCode := rfl
@[simp] theorem noteRead_errOpc (off : Nat) (s : State) : (noteRead off s).errOpc = s.errOpc := rfl
@[simp] theorem noteRead_ksph (off : Nat) (s : State) : (noteRead off s).ksph = s.ksph := rfl
@[simp] theorem noteRead_kraw (off : Nat) (s : State) : (noteRead off s).kraw = s.kraw := rfl
@[simp] theorem noteRead_kcnt (off : Nat) (s : State) : (noteRead off s).kcnt = s.kcnt := rfl
@[simp] theorem noteRead_kctx (off : Nat) (s : State) : (noteRead off s).kctx = s.kctx := rfl
@[simp] theorem noteRead_acc (off : Nat) (s : State) : (noteRead off s).acc = s.acc := rfl
@[simp] theorem noteRead_nbits (off : Nat) (s : State) : (noteRead off s).nbits = s.nbits := rfl
@[simp] theorem noteRead_kvalid (off : Nat) (s : State) : (noteRead off s).kvalid = s.kvalid := rfl
@[simp] theorem noteRead_kp (off : Nat) (s : State) : (noteRead off s).kp = s.kp := rfl
@[simp] theorem noteRead_klen (off : Nat) (s : State) : (noteRead off s).klen = s.klen := rfl
@[simp] theorem noteRead_hact (off : Nat) (s : State) : (noteRead off s).hact = s.hact := rfl
@[simp] theorem noteRead_ictx (off : Nat) (s : State) : (noteRead off s).ictx = s.ictx := rfl
@[simp] theorem noteRead_mcnt (off : Nat) (s : State) : (noteRead off s).mcnt = s.mcnt := rfl
@[simp] theorem noteRead_dvalid (off : Nat) (s : State) : (noteRead off s).dvalid = s.dvalid := rfl
@[simp] theorem noteRead_dig (off : Nat) (s : State) : (noteRead off s).dig = s.dig := rfl
@[simp] theorem noteRead_inReset (off : Nat) (s : State) : (noteRead off s).inReset = s.inReset := rfl
@[simp] theorem noteRead_inputs (off : Nat) (s : State) : (noteRead off s).inputs = s.inputs := rfl
@[simp] theorem noteRead_freeCount (off : Nat) (s : State) : (noteRead off s).freeCount = s.freeCount := rfl

@[simp] theorem countDown_ctrl (s : State) : (countDown s).ctrl = s.ctrl := rfl
@[simp] theorem countDown_data0 (s : State) : (countDown s).data0 = s.data0 := rfl
@[simp] theorem countDown_data1 (s : State) : (countDown s).data1 = s.data1 := rfl
@[simp] theorem countDown_err (s : State) : (countDown s).err = s.err := rfl
@[simp] theorem countDown_errCode (s : State) : (countDown s).errCode = s.errCode := rfl
@[simp] theorem countDown_errOpc (s : State) : (countDown s).errOpc = s.errOpc := rfl
@[simp] theorem countDown_ksph (s : State) : (countDown s).ksph = s.ksph := rfl
@[simp] theorem countDown_kraw (s : State) : (countDown s).kraw = s.kraw := rfl
@[simp] theorem countDown_kcnt (s : State) : (countDown s).kcnt = s.kcnt := rfl
@[simp] theorem countDown_kctx (s : State) : (countDown s).kctx = s.kctx := rfl
@[simp] theorem countDown_acc (s : State) : (countDown s).acc = s.acc := rfl
@[simp] theorem countDown_nbits (s : State) : (countDown s).nbits = s.nbits := rfl
@[simp] theorem countDown_kvalid (s : State) : (countDown s).kvalid = s.kvalid := rfl
@[simp] theorem countDown_kp (s : State) : (countDown s).kp = s.kp := rfl
@[simp] theorem countDown_klen (s : State) : (countDown s).klen = s.klen := rfl
@[simp] theorem countDown_hact (s : State) : (countDown s).hact = s.hact := rfl
@[simp] theorem countDown_ictx (s : State) : (countDown s).ictx = s.ictx := rfl
@[simp] theorem countDown_mcnt (s : State) : (countDown s).mcnt = s.mcnt := rfl
@[simp] theorem countDown_dvalid (s : State) : (countDown s).dvalid = s.dvalid := rfl
@[simp] theorem countDown_dig (s : State) : (countDown s).dig = s.dig := rfl
@[simp] theorem countDown_inReset (s : State) : (countDown s).inReset = s.inReset := rfl
@[simp] theorem countDown_inputs (s : State) : (countDown s).inputs = s.inputs := rfl
@[simp] theorem countDown_reads (s : State) : (countDown s).reads = s.reads := rfl
@[simp] theorem countDown_freeCount (s : State) : (countDown s).freeCount = s.freeCount := rfl

/-! ### What each operation writes -/

@[simp] theorem recordError_err (c : ErrCode) (o : Byte) (s : State) : (recordError c o s).err = true := by
  unfold recordError; split <;> rfl

theorem recordError_first {s : State} (h : s.err = false) (c : ErrCode) (o : Byte) :
    (recordError c o s).errCode = c ∧ (recordError c o s).errOpc = o := by
  simp [recordError, h]

theorem recordError_later {s : State} (h : s.err = true) (c : ErrCode) (o : Byte) : recordError c o s = s := by
  cases s; simp_all [recordError]

@[simp] theorem clearError_err (s : State) : (clearError s).err = false := rfl
@[simp] theorem clearError_errCode (s : State) : (clearError s).errCode = .none := rfl
@[simp] theorem clearError_errOpc (s : State) : (clearError s).errOpc = 0x00#8 := rfl

@[simp] theorem clearStaging_kraw (s : State) : (clearStaging s).kraw = [] := rfl
@[simp] theorem clearStaging_kcnt (s : State) : (clearStaging s).kcnt = 0 := rfl
@[simp] theorem clearStaging_acc (s : State) : (clearStaging s).acc = 0 := rfl
@[simp] theorem clearStaging_nbits (s : State) : (clearStaging s).nbits = 0 := rfl

@[simp] theorem endSession_ksph (s : State) : (endSession s).ksph = .idle := rfl
@[simp] theorem endSession_kraw (s : State) : (endSession s).kraw = [] := rfl
@[simp] theorem endSession_kcnt (s : State) : (endSession s).kcnt = 0 := rfl
@[simp] theorem endSession_acc (s : State) : (endSession s).acc = 0 := rfl
@[simp] theorem endSession_nbits (s : State) : (endSession s).nbits = 0 := rfl

@[simp] theorem closeHmac_hact (s : State) : (closeHmac s).hact = false := rfl

@[simp] theorem commit_ksph (s : State) : (commit s).ksph = .idle := rfl
@[simp] theorem commit_kraw (s : State) : (commit s).kraw = [] := rfl
@[simp] theorem commit_kcnt (s : State) : (commit s).kcnt = 0 := rfl
@[simp] theorem commit_acc (s : State) : (commit s).acc = 0 := rfl
@[simp] theorem commit_nbits (s : State) : (commit s).nbits = 0 := rfl
@[simp] theorem commit_kvalid (s : State) : (commit s).kvalid = true := rfl
@[simp] theorem commit_kp (s : State) : (commit s).kp = s.expandStaged := rfl
@[simp] theorem commit_klen (s : State) : (commit s).klen = BitVec.ofNat 32 s.kcnt := rfl
@[simp] theorem commit_hact (s : State) : (commit s).hact = false := rfl

@[simp] theorem retire_pend (s : State) : (retire s).pend = none := rfl
@[simp] theorem retire_busy (s : State) : (retire s).busy = false := rfl

@[simp] theorem noteRead_reads (off : Nat) (s : State) :
    (noteRead off s).reads = s.reads ++ [(off, readReg off s)] := rfl

/-- Everything the soft reset writes and leaves (40_control R101), but for the free values. -/
theorem softReset_spec (s : State) :
    let t := softReset s
    (t.ctrl = s.ctrl ∧ t.data0 = s.data0 ∧ t.data1 = s.data1 ∧ t.pend = s.pend) ∧
    (t.err = false ∧ t.errCode = .none ∧ t.errOpc = 0x00#8) ∧
    (t.ksph = .idle ∧ t.kraw = [] ∧ t.kcnt = 0 ∧ t.acc = 0 ∧ t.nbits = 0) ∧
    (t.kvalid = false ∧ t.klen = 0 ∧ t.hact = false ∧ t.mcnt = 0) ∧
    (t.dvalid = false ∧ t.dig = ⟨0, 0, 0, 0, 0⟩) ∧
    (t.inReset = s.inReset ∧ t.inputs = s.inputs ∧ t.reads = s.reads) :=
  ⟨⟨rfl, rfl, rfl, rfl⟩, ⟨rfl, rfl, rfl⟩, ⟨rfl, rfl, rfl, rfl, rfl⟩, ⟨rfl, rfl, rfl, rfl⟩, ⟨rfl, rfl⟩, ⟨rfl, rfl, rfl⟩⟩

/-- Everything the reset input writes and leaves (70_reset R240), but for the free values. -/
theorem resetBlock_spec (s : State) :
    AtResetValues (resetBlock s) ∧ (resetBlock s).inReset = s.inReset ∧ (resetBlock s).inputs = s.inputs ∧
      (resetBlock s).reads = s.reads :=
  ⟨⟨rfl, ⟨rfl, rfl⟩, rfl, ⟨rfl, rfl, rfl⟩, ⟨rfl, rfl, rfl, rfl, rfl⟩, ⟨rfl, rfl⟩, ⟨rfl, rfl⟩, ⟨rfl, rfl⟩⟩, rfl, rfl, rfl⟩

/-- A free context is within the bounds of R34. -/
theorem freeCtx_wf (n : Nat) : (freeCtx n).Wf :=
  ⟨by simp [freeCtx], Nat.mod_lt _ (by decide)⟩

/-- A free KP has 64 bytes. -/
@[simp] theorem freeKp_length (n : Nat) : (freeKp n).length = 64 := by simp [freeKp]

@[simp] theorem softReset_kp_length (s : State) : (softReset s).kp.length = 64 := by simp [softReset]

@[simp] theorem resetBlock_kp_length (s : State) : (resetBlock s).kp.length = 64 := by simp [resetBlock]

end Sys2Proof.Machine
end

