-- ==== Sys2Proof/Laws/Ops.lean ====
section
/-! SUPPORT. One lemma per shared operation that says once everything it can do; the provers cite these. -/

namespace Sys2Proof.Machine

/-- Everything `keyPush` can do (42_key R141, R142). -/
theorem keyPush_cases (b opc : Byte) (s : State) :
    (s.kcnt = Config.maxKeyBytes ∧ keyPush b opc s = { recordError .length opc s with ksph := .failed }) ∨
    (s.kcnt ≠ Config.maxKeyBytes ∧ s.kcnt < 64 ∧
      keyPush b opc s = { s with kraw := s.kraw ++ [b], kcnt := s.kcnt + 1 }) ∨
    (s.kcnt = 64 ∧
      keyPush b opc s = { s with kctx := (Sha1Ctx.init.absorbAll s.kraw).absorb b, kcnt := s.kcnt + 1 }) ∨
    (s.kcnt ≠ Config.maxKeyBytes ∧ 64 < s.kcnt ∧
      keyPush b opc s = { s with kctx := s.kctx.absorb b, kcnt := s.kcnt + 1 }) := by
  unfold keyPush
  split_ifs with h1 h2 h3
  · exact .inl ⟨h1, rfl⟩
  · exact .inr (.inl ⟨h1, h2, rfl⟩)
  · exact .inr (.inr (.inl ⟨h3, rfl⟩))
  · exact .inr (.inr (.inr ⟨h1, by omega, rfl⟩))

/-- What `keyPush` leaves alone in every case. -/
theorem keyPush_frame (b opc : Byte) (s : State) :
    let t := keyPush b opc s
    (t.ctrl = s.ctrl ∧ t.data0 = s.data0 ∧ t.data1 = s.data1 ∧ t.pend = s.pend) ∧
    (t.acc = s.acc ∧ t.nbits = s.nbits) ∧
    (t.kvalid = s.kvalid ∧ t.kp = s.kp ∧ t.klen = s.klen) ∧
    (t.hact = s.hact ∧ t.ictx = s.ictx ∧ t.mcnt = s.mcnt) ∧
    (t.dvalid = s.dvalid ∧ t.dig = s.dig) ∧
    (t.inReset = s.inReset ∧ t.inputs = s.inputs ∧ t.reads = s.reads ∧ t.freeCount = s.freeCount) := by
  rcases keyPush_cases b opc s with ⟨_, h⟩ | ⟨_, _, h⟩ | ⟨_, h⟩ | ⟨_, _, h⟩ <;> rw [h] <;> simp

@[simp] theorem keyPushAll_nil (opc : Byte) (s : State) : keyPushAll [] opc s = s := rfl

@[simp] theorem keyPushAll_cons (b : Byte) (bs : List Byte) (opc : Byte) (s : State) :
    keyPushAll (b :: bs) opc s = keyPushAll bs opc (keyPush b opc s) := rfl

/-- Everything `msgPush` can do (44_hmac R198). -/
theorem msgPush_cases (bs : List Byte) (opc : Byte) (s : State) :
    (Config.maxMsgBytes < s.mcnt + bs.length ∧ msgPush bs opc s = closeHmac (recordError .length opc s)) ∨
    (s.mcnt + bs.length ≤ Config.maxMsgBytes ∧
      msgPush bs opc s = { s with ictx := s.ictx.absorbAll bs, mcnt := s.mcnt + bs.length }) := by
  unfold msgPush
  split_ifs with h
  · exact .inl ⟨h, rfl⟩
  · exact .inr ⟨by omega, rfl⟩

/-- Everything `b32Char` can do (41_base32 R123). -/
theorem b32Char_cases (strip : Bool) (c opc : Byte) (s : State) :
    (charClass strip c = .skip ∧ b32Char strip c opc s = s) ∨
    (charClass strip c = .bad ∧ b32Char strip c opc s = { recordError .invalidChar opc s with ksph := .failed }) ∨
    (∃ v, charClass strip c = .value v ∧ b32Char strip c opc s = b32Value v opc s) := by
  unfold b32Char
  cases h : charClass strip c with
  | skip => exact .inl ⟨rfl, rfl⟩
  | bad => exact .inr (.inl ⟨rfl, rfl⟩)
  | value v => exact .inr (.inr ⟨v, rfl, rfl⟩)

/-- Everything a CMD write can do (70_reset R245). -/
theorem writeCmd_cases (w : Word) (s : State) :
    (s.pend = none ∧ ∃ d, writeCmd w s =
      { s with pend := some { word := w, latch := s.liveLatch, delay := d }, freeCount := s.freeCount + 1 }) ∨
    (s.pend ≠ none ∧ writeCmd w s = recordError .busy (opcField w) s) := by
  unfold writeCmd
  cases h : s.pend with
  | none => exact .inl ⟨rfl, _, rfl⟩
  | some p => exact .inr ⟨by simp, rfl⟩

/-- What recording an error does to the error record (60_exceptions R214). -/
theorem recordError_recorded (c : ErrCode) (o : Byte) (s : State) : ErrorRecorded c o s (recordError c o s) := by
  refine ⟨by simp, fun h => recordError_first h _ _, fun h => ?_⟩
  rw [recordError_later h]; exact ⟨rfl, rfl⟩

/-- The same for any state with that error record. -/
theorem errorRecorded_of_eq {c : ErrCode} {o : Byte} {s t : State} (h1 : t.err = (recordError c o s).err)
    (h2 : t.errCode = (recordError c o s).errCode) (h3 : t.errOpc = (recordError c o s).errOpc) :
    ErrorRecorded c o s t := by
  have h := recordError_recorded c o s
  unfold ErrorRecorded at *
  rw [h1, h2, h3]; exact h

/-- An error recorded while ERR = 1 leaves the record as it is (R214). -/
theorem recordError_sticky (c : ErrCode) (o : Byte) {s : State} (h : s.err = true) :
    SameError s (recordError c o s) := by
  rw [recordError_later h]; exact ⟨rfl, rfl, rfl⟩

/-- What a push does to the staged bytes (42_key R141, R142). -/
theorem keyPush_pushed (b o : Byte) (s : State) : KeyPushed b o s (keyPush b o s) := by
  constructor
  · intro h
    rw [keyPush, if_pos h]
    exact ⟨errorRecorded_of_eq rfl rfl rfl, rfl, by simp [SameStagedBytes]⟩
  · intro h
    rcases keyPush_cases b o s with ⟨h1, _⟩ | ⟨_, _, h2⟩ | ⟨h1, h2⟩ | ⟨_, _, h2⟩
    · exact absurd h1 h
    · rw [h2]; simp [SameError]; omega
    · rw [h2]; simp [SameError, h1]
    · rw [h2]; simp [SameError]; constructor <;> intros <;> omega

/-- What a commit does (42_key R146). -/
theorem commit_committed (s : State) : KeyCommitted s (commit s) := by
  refine ⟨rfl, rfl, ?_, ?_, rfl, rfl, ⟨rfl, rfl, rfl, rfl, rfl⟩, ⟨rfl, rfl, rfl⟩, ⟨rfl, rfl, rfl, rfl⟩, ⟨rfl, rfl⟩,
    ⟨rfl, rfl, rfl⟩⟩
  · intro h; simp [State.expandStaged, h]
  · intro h; simp [State.expandStaged, Nat.not_le.2 h]

/-! ### Frames of the shared operations -/

theorem onlySessionAndError_refl (s : State) : OnlySessionAndError s s := by
  simp [OnlySessionAndError, SameConfig, SameKey, SameHmac, SameDigest, SameWorld]

theorem onlySessionAndError_trans {a b c : State} (h : OnlySessionAndError a b) (k : OnlySessionAndError b c) :
    OnlySessionAndError a c := by
  simp only [OnlySessionAndError, SameConfig, SameKey, SameHmac, SameDigest, SameWorld] at *
  simp [k, h]

theorem recordError_only (c : ErrCode) (o : Byte) (s : State) : OnlySessionAndError s (recordError c o s) := by
  simp [OnlySessionAndError, SameConfig, SameKey, SameHmac, SameDigest, SameWorld]

theorem endSession_only (s : State) : OnlySessionAndError s (endSession s) := by
  simp [OnlySessionAndError, SameConfig, SameKey, SameHmac, SameDigest, SameWorld]

theorem keyPush_only (b o : Byte) (s : State) : OnlySessionAndError s (keyPush b o s) := by
  have h := keyPush_frame b o s
  simp only at h
  simp [OnlySessionAndError, SameConfig, SameKey, SameHmac, SameDigest, SameWorld, h]

theorem keyPushAll_only (bs : List Byte) (o : Byte) (s : State) : OnlySessionAndError s (keyPushAll bs o s) := by
  induction bs generalizing s with
  | nil => exact onlySessionAndError_refl s
  | cons b bs ih => exact onlySessionAndError_trans (keyPush_only b o s) (ih _)

/-- The two cases of unpacking one value (41_base32 R123). -/
theorem b32Value_cases (v : BitVec 5) (o : Byte) (s : State) :
    (s.nbits < 3 ∧ b32Value v o s = { s with acc := (s.acc <<< 5) ||| v.setWidth 12, nbits := s.nbits + 5 }) ∨
    (3 ≤ s.nbits ∧ b32Value v o s =
      keyPush ((((s.acc <<< 5) ||| v.setWidth 12) >>> (s.nbits - 3)).setWidth 8) o
        { s with
          nbits := s.nbits - 3
          acc := ((s.acc <<< 5) ||| v.setWidth 12) &&& BitVec.ofNat 12 (2 ^ (s.nbits - 3) - 1) }) := by
  unfold b32Value
  by_cases h : 3 ≤ s.nbits
  · exact .inr ⟨h, by simp only [show 8 ≤ s.nbits + 5 by omega, if_true, show s.nbits + 5 - 8 = s.nbits - 3 by omega]⟩
  · exact .inl ⟨by omega, by simp only [show ¬ 8 ≤ s.nbits + 5 by omega, if_false]⟩

theorem b32Char_only (strip : Bool) (c o : Byte) (s : State) : OnlySessionAndError s (b32Char strip c o s) := by
  rcases b32Char_cases strip c o s with ⟨_, h⟩ | ⟨_, h⟩ | ⟨v, _, h⟩ <;> rw [h]
  · exact onlySessionAndError_refl s
  · exact recordError_only .invalidChar o s
  · rcases b32Value_cases v o s with ⟨_, h⟩ | ⟨_, h⟩ <;> rw [h]
    · exact onlySessionAndError_refl s
    · exact onlySessionAndError_trans (onlySessionAndError_refl s) (keyPush_only _ o _)

theorem b32Chars_only (strip : Bool) (o : Byte) (cs : List Byte) (s : State) :
    OnlySessionAndError s (b32Chars strip o cs s) := by
  induction cs generalizing s with
  | nil => exact onlySessionAndError_refl s
  | cons c cs ih =>
    unfold b32Chars
    split
    · exact onlySessionAndError_refl s
    · split
      · exact ih s
      · exact onlySessionAndError_trans (b32Char_only strip c o s) (ih _)

theorem msgPush_only (bs : List Byte) (o : Byte) (s : State) : OnlyHmacAndError s (msgPush bs o s) := by
  rcases msgPush_cases bs o s with ⟨_, h⟩ | ⟨_, h⟩ <;> rw [h] <;>
    simp [OnlyHmacAndError, SameConfig, SameSession, SameStagedBytes, SameBits, SameKey, SameDigest, SameWorld]

/-- With a command pending, the operands are the copies it latched (70_reset R246). -/
theorem latched_of_pend {s : State} {p : Pending} (h : s.pend = some p) : s.latched = p.latch := by
  simp [State.latched, h]

/-! ### The window -/

/-- `BASE` is a multiple of 4 (20_memory R60). -/
theorem base_mod_four : Config.base % 4 = 0 := by unfold Config.base Config.windowBytes; omega

/-- An aligned 32-bit access at an offset of the window reaches that offset (R60, R64). -/
theorem access_at {off : Nat} (h4 : off % 4 = 0) (h64 : off < 64) (act : Nat → State → State) (s : State) :
    access (Config.base + off) 4 act s = .next (act off s) := by
  have hw : inWindow (Config.base + off) = true := by simp [inWindow, Config.windowBytes]; omega
  have ha : aligned32 (Config.base + off) 4 = true := by have := base_mod_four; simp [aligned32]; omega
  simp [access, hw, ha]

/-- An access that is admitted acts at its offset. -/
theorem access_cases {addr bytes : Nat} {act : Nat → State → State} {s t : State}
    (h : access addr bytes act s = .next t) :
    inWindow addr = true ∧ aligned32 addr bytes = true ∧ t = act (addr - Config.base) s := by
  unfold access at h
  split_ifs at h with a b
  injection h with h
  exact ⟨by simpa using a, by simpa using b, h.symm⟩

/-- Everything a register write can do (20_memory R63). -/
theorem writeReg_cases (off : Nat) (v : Word) (s : State) :
    (writeReg off v s = { s with ctrl := s.ctrl.write v }) ∨ writeReg off v s = writeCmd v s ∨
    writeReg off v s = { s with data0 := v } ∨ writeReg off v s = { s with data1 := v } ∨ writeReg off v s = s := by
  unfold writeReg
  split <;> simp

/-- Everything an input can do. -/
theorem inputStep_cases {inp : Input} {s t : State} (h : inputStep inp s = .next t) :
    (inp = .assertReset ∧ t = resetBlock { s with inReset := true }) ∨
    (inp = .releaseReset ∧ t = { s with inReset := false }) ∨
    (s.inReset = false ∧ ∃ off, t = noteRead off s) ∨
    (s.inReset = false ∧ t = noteRead 0x08 { s with inputs := .poll :: s.inputs }) ∨
    (s.inReset = false ∧ ∃ off v, t = writeReg off v s) := by
  cases inp with
  | assertReset => simp only [inputStep, Host.Outcome.next.injEq] at h; exact .inl ⟨rfl, h.symm⟩
  | releaseReset => simp only [inputStep, Host.Outcome.next.injEq] at h; exact .inr (.inl ⟨rfl, h.symm⟩)
  | read a b =>
    simp only [inputStep] at h
    split_ifs at h with hr
    exact .inr (.inr (.inl ⟨by simpa using hr, _, (access_cases h).2.2⟩))
  | write a b v =>
    simp only [inputStep] at h
    split_ifs at h with hr
    exact .inr (.inr (.inr (.inr ⟨by simpa using hr, _, v, (access_cases h).2.2⟩)))
  | poll =>
    simp only [inputStep] at h
    split_ifs at h with hr hb <;> injection h with h
    · exact .inr (.inr (.inr (.inl ⟨by simpa using hr, h.symm⟩)))
    · exact .inr (.inr (.inl ⟨by simpa using hr, _, h.symm⟩))

/-! ### Completion and the step -/

/-- No command stops the machine: every arm of `exec` answers a next state (60_exceptions R210). -/
theorem exec_is_next (i : Instr) (s : State) : ∃ t, exec i s = .next t := by
  cases i <;> exact ⟨_, rfl⟩

/-- A completion answers a next state in which no command is pending (70_reset R247). -/
theorem complete_is_next (p : Pending) (s : State) : ∃ t, complete p s = .next (retire t) := by
  unfold complete
  cases h : decode p.word with
  | illegal why => exact ⟨_, rfl⟩
  | command i =>
    obtain ⟨t, ht⟩ := exec_is_next i s
    exact ⟨t, by simp only [ht, retireOutcome]⟩

/-- Everything a completion can do (R247). -/
theorem complete_cases {p : Pending} {s t : State} (h : complete p s = .next t) :
    (∃ i u, decode p.word = .command i ∧ exec i s = .next u ∧ t = retire u) ∨
    ((∃ w, decode p.word = .illegal w) ∧ t = retire (recordError .illegal (opcField p.word) s)) := by
  unfold complete at h
  cases hd : decode p.word with
  | command i =>
    simp only [hd] at h
    obtain ⟨u, hu⟩ := exec_is_next i s
    rw [hu] at h
    injection h with h
    exact .inl ⟨i, u, rfl, hu, h.symm⟩
  | illegal w =>
    simp only [hd] at h
    injection h with h
    exact .inr ⟨⟨w, rfl⟩, h.symm⟩

/-- Everything one step can do (70_reset R240, R247, R254): idle or held in reset, a completion, or an input. -/
theorem step_cases (s : State) :
    (s.inputs = [] ∧ (s.inReset = true ∨ s.pend = none) ∧ step s = .next s) ∨
    (∃ p, s.inReset = false ∧ s.pend = some p ∧ (s.inputs = [] ∨ p.delay = 0) ∧ step s = complete p s) ∨
    (∃ p inp rest, s.inReset = false ∧ s.pend = some p ∧ p.delay ≠ 0 ∧ s.inputs = inp :: rest ∧
      step s = inputStep inp (countDown { s with inputs := rest })) ∨
    (∃ inp rest, (s.inReset = true ∨ s.pend = none) ∧ s.inputs = inp :: rest ∧
      step s = inputStep inp { s with inputs := rest }) := by
  unfold step machineStep
  cases hi : s.inputs with
  | nil =>
    cases hr : s.inReset with
    | true => exact .inl ⟨rfl, .inl rfl, rfl⟩
    | false =>
      cases hp : s.pend with
      | none => exact .inl ⟨rfl, .inr rfl, rfl⟩
      | some p => exact .inr (.inl ⟨p, rfl, rfl, .inl rfl, rfl⟩)
  | cons inp rest =>
    cases hr : s.inReset with
    | true => exact .inr (.inr (.inr ⟨inp, rest, .inl rfl, rfl, rfl⟩))
    | false =>
      cases hp : s.pend with
      | none => exact .inr (.inr (.inr ⟨inp, rest, .inr rfl, rfl, rfl⟩))
      | some p =>
        by_cases hd : p.delay = 0
        · exact .inr (.inl ⟨p, rfl, rfl, .inr hd, by simp [hd]⟩)
        · exact .inr (.inr (.inl ⟨p, inp, rest, rfl, rfl, hd, rfl, by simp [hd]⟩))


/-- When the host moves, the step is its next input, one step nearer to a completion in flight. -/
theorem step_of_hostMoves {s : State} {inp : Input} {rest : List Input} (h : HostMoves s) (hi : s.inputs = inp :: rest) :
    step s = inputStep inp
      { s with inputs := rest, pend := s.pend.map (fun p => { p with delay := p.delay - 1 }) } := by
  rcases step_cases s with ⟨a, _, _⟩ | ⟨p, _, b, c, _⟩ | ⟨p, i, r, _, _, _, d, e⟩ | ⟨i, r, a, b, c⟩
  · simp_all
  · exact absurd (h.2 p b) (by rcases c with c | c <;> simp_all)
  · rw [hi] at d; injection d with d1 d2; subst d1; subst d2; rw [e]; rfl
  · rw [hi] at b; injection b with d1 d2; subst d1; subst d2; rw [c]
    rcases a with a | a
    · rw [h.1] at a; cases a
    · congr 1; cases s; simp_all

/-- When the engine moves, the step is the completion. -/
theorem step_of_engineMoves {s : State} {p : Pending} (h : EngineMoves p s) : step s = complete p s := by
  obtain ⟨h1, h2, h3⟩ := h
  rcases step_cases s with ⟨_, _, _⟩ | ⟨q, _, b, _, d⟩ | ⟨q, i, r, _, _, _, _, _⟩ | ⟨i, r, _, _, _⟩
  · simp_all
  · rw [b] at h2; injection h2 with h2; subst h2; exact d
  · simp_all
  · simp_all

end Sys2Proof.Machine
end

