-- ==== Sys2Proof/Laws/Commands.lean ====
section
/-! SUPPORT. The frame of every command, one lemma per kind of command: what a completed command can have changed. -/

namespace Sys2Proof.Machine

/-- Every command but SRST, a commit and the HMAC commands changes only the session and the error record. -/
theorem exec_frame {i : Instr} {s t : State} (h : exec i s = .next t) :
    OnlySessionAndError s t ∨ i = .srst ∨ (i = .kend ∧ s.ksph = .raw ∧ t = commit s) ∨
    (i = .bend ∧ s.ksph = .b32 ∧ s.kcnt ≠ 0 ∧ t = commit s) ∨
    (i = .hstart ∨ (∃ b, i = .mbyte b) ∨ i = .mword ∨ i = .mctr) ∨ i = .hfinish := by
  have phase : ∀ (a : State) (ph : Phase), OnlySessionAndError s a → OnlySessionAndError s { a with ksph := ph } :=
    fun _ _ k => k
  cases i <;> simp only [exec, execNop, execSrst, execEclr, execKbegin, execKbyte, execKword, execKend, execBbegin,
    execBchar, execBword, execBend, Host.Outcome.next.injEq] at h <;> try (simp; done)
  all_goals subst h
  · exact .inl (onlySessionAndError_refl s)
  · exact .inl (onlySessionAndError_refl s)
  · exact .inl (onlySessionAndError_refl s)
  · left; split_ifs
    · exact onlySessionAndError_refl s
    · exact recordError_only _ _ _
    · exact keyPush_only _ _ _
  · left; split_ifs
    · exact onlySessionAndError_refl s
    · exact recordError_only _ _ _
    · exact phase _ _ (recordError_only _ _ _)
    · exact keyPushAll_only _ _ _
  · split_ifs with h1 h2
    · exact .inl (endSession_only s)
    · exact .inl (recordError_only _ _ _)
    · exact .inr (.inr (.inl ⟨rfl, by simpa using h2, rfl⟩))
  · exact .inl (onlySessionAndError_refl s)
  · left; split_ifs
    · exact onlySessionAndError_refl s
    · exact recordError_only _ _ _
    · exact b32Char_only _ _ _ _
  · left; split_ifs
    · exact onlySessionAndError_refl s
    · exact recordError_only _ _ _
    · exact b32Chars_only _ _ _ _
  · split_ifs with h1 h2 h3 h4
    · exact .inl (endSession_only s)
    · exact .inl (recordError_only _ _ _)
    · exact .inl (onlySessionAndError_trans (recordError_only _ _ _) (endSession_only _))
    · exact .inl (onlySessionAndError_trans (recordError_only _ _ _) (endSession_only _))
    · exact .inr (.inr (.inr (.inl ⟨rfl, by simpa using h2, h4, rfl⟩)))

/-- HSTART, MBYTE, MWORD and MCTR change only the HMAC computation and the error record. -/
theorem exec_hmac_frame {i : Instr} {s t : State} (h : exec i s = .next t)
    (hi : i = .hstart ∨ (∃ b, i = .mbyte b) ∨ i = .mword ∨ i = .mctr) : OnlyHmacAndError s t := by
  have rec' : ∀ c o, OnlyHmacAndError s (recordError c o s) := by
    intro c o
    simp [OnlyHmacAndError, SameConfig, SameSession, SameStagedBytes, SameBits, SameKey, SameDigest, SameWorld]
  rcases hi with rfl | ⟨b, rfl⟩ | rfl | rfl <;>
    simp only [exec, execHstart, execMbyte, execMword, execMctr, Host.Outcome.next.injEq] at h <;> subst h <;>
    split_ifs <;> first
      | exact rec' _ _
      | exact msgPush_only _ _ _
      | simp [OnlyHmacAndError, SameConfig, SameSession, SameStagedBytes, SameBits, SameKey, SameDigest, SameWorld]

end Sys2Proof.Machine
end

