-- ==== Sys2Proof/Laws/Flags.lean ====
section
/-! SUPPORT. CTRL and STATUS field by field (10_state R25, R27): the provers' access to the two words. -/

namespace Sys2Proof.Machine

/-- STATUS is determined by the fields it shows (R27). -/
theorem statusWord_congr {s t : State} (hb : t.pend.isSome = s.pend.isSome) (hk : t.kvalid = s.kvalid)
    (hd : t.dvalid = s.dvalid) (he : t.err = s.err) (hc : t.errCode = s.errCode) (ho : t.errOpc = s.errOpc)
    (hp : t.ksph = s.ksph) (hh : t.hact = s.hact) (hn : t.kcnt = s.kcnt) (hbits : t.nbits = s.nbits) :
    t.statusWord = s.statusWord := by
  unfold State.statusWord State.busy State.klong
  rw [hb, hk, hd, he, hc, ho, hp, hh, hn, hbits]

/-- Bits [7:0] of STATUS, as a number. -/
theorem statusWord_low (s : State) :
    s.statusWord.extractLsb' 0 8 =
      BitVec.ofBool s.klong ++ BitVec.ofBool s.hact ++ s.ksph.bits ++ BitVec.ofBool s.err ++ BitVec.ofBool s.dvalid ++
        BitVec.ofBool s.kvalid ++ BitVec.ofBool s.busy := by
  apply BitVec.eq_of_getLsbD_eq
  intro i hi
  simp only [State.statusWord, BitVec.getLsbD_extractLsb', BitVec.getLsbD_append]
  interval_cases i <;> simp

/-- The CTRL word's bits [31:3] are zero (R25). -/
theorem ctrl_word_high (c : Ctrl) : c.word.extractLsb' 3 29 = 0 := by
  cases c with | mk m st => cases m <;> cases st <;> decide

/-- B32MODE never reads 3 (R26). -/
theorem ctrl_word_mode (c : Ctrl) : c.word.extractLsb' 0 2 = c.mode.bits ∧ c.mode.bits ≠ 3 := by
  cases c with | mk m st => cases m <;> cases st <;> decide

end Sys2Proof.Machine
end

