-- ==== Sys2Proof/Laws/PerInstr.lean ====
section
/-! SUPPORT. Facts about every command as a word, one lemma per constructor. Family `EncodingFields`: the encoding of a
command has the fields of format C (30_encoding R80) with the opcode of R84, and matches the opcode table's row under the
row's mask. -/

namespace Sys2Proof.Laws.EncodingFields

/-- OPC, RSV and IMM8 of the encoding, and the row of the opcode table. -/
def Statement (i : Instr) : Prop :=
  opcField (encode i) = i.mnemonic.opcode ∧ rsvField (encode i) = 0 ∧ immField (encode i) = i.imm8 ∧
    encode i &&& i.mnemonic.mask = encodeParts i.mnemonic 0

theorem nop : Statement .nop := by unfold Statement; decide
theorem srst : Statement .srst := by unfold Statement; decide
theorem eclr : Statement .eclr := by unfold Statement; decide
theorem kbegin : Statement .kbegin := by unfold Statement; decide
theorem kbyte : ∀ b : Byte, Statement (.kbyte b) := by unfold Statement; decide +kernel
theorem kword : Statement .kword := by unfold Statement; decide
theorem kend : Statement .kend := by unfold Statement; decide
theorem bbegin : Statement .bbegin := by unfold Statement; decide
theorem bchar : ∀ c : Byte, Statement (.bchar c) := by unfold Statement; decide +kernel
theorem bword : Statement .bword := by unfold Statement; decide
theorem bend : Statement .bend := by unfold Statement; decide
theorem hstart : Statement .hstart := by unfold Statement; decide
theorem mbyte : ∀ b : Byte, Statement (.mbyte b) := by unfold Statement; decide +kernel
theorem mword : Statement .mword := by unfold Statement; decide
theorem mctr : Statement .mctr := by unfold Statement; decide
theorem hfinish : Statement .hfinish := by unfold Statement; decide

end Sys2Proof.Laws.EncodingFields
end

