-- ==== Sys2Proof/Laws/Related.lean ====
section
/-! SUPPORT. The shared operations on two related states: other live registers (`withLive`), other secrets
(`withSecrets`), another error record with ERR = 1 (`withError true`). Where an operation neither reads nor writes what
differs, it commutes with the change. -/

namespace Sys2Proof.Machine

/-! ### Other live registers (70_reset R246) -/

theorem recordError_withLive (code : ErrCode) (opc : Byte) (c : Ctrl) (d0 d1 : Word) (s : State) :
    recordError code opc (s.withLive c d0 d1) = (recordError code opc s).withLive c d0 d1 := by
  unfold recordError State.withLive; dsimp only; split <;> rfl

theorem keyPush_withLive (b opc : Byte) (c : Ctrl) (d0 d1 : Word) (s : State) :
    keyPush b opc (s.withLive c d0 d1) = (keyPush b opc s).withLive c d0 d1 := by
  unfold keyPush
  rw [recordError_withLive]
  show (if s.kcnt = _ then _ else if s.kcnt < _ then _ else if s.kcnt = _ then _ else _) = _
  split_ifs <;> rfl

theorem keyPushAll_withLive (bs : List Byte) (opc : Byte) (c : Ctrl) (d0 d1 : Word) (s : State) :
    keyPushAll bs opc (s.withLive c d0 d1) = (keyPushAll bs opc s).withLive c d0 d1 := by
  induction bs generalizing s with
  | nil => rfl
  | cons b bs ih => rw [keyPushAll_cons, keyPush_withLive, ih]; rfl

theorem b32Value_withLive (v : BitVec 5) (opc : Byte) (c : Ctrl) (d0 d1 : Word) (s : State) :
    b32Value v opc (s.withLive c d0 d1) = (b32Value v opc s).withLive c d0 d1 := by
  unfold b32Value
  rw [apply_ite (State.withLive c d0 d1), ← keyPush_withLive]
  rfl

theorem b32Char_withLive (strip : Bool) (ch opc : Byte) (c : Ctrl) (d0 d1 : Word) (s : State) :
    b32Char strip ch opc (s.withLive c d0 d1) = (b32Char strip ch opc s).withLive c d0 d1 := by
  unfold b32Char
  cases charClass strip ch
  · exact b32Value_withLive ..
  · rfl
  · rw [recordError_withLive]; rfl

theorem b32Chars_withLive (strip : Bool) (opc : Byte) (cs : List Byte) (c : Ctrl) (d0 d1 : Word) (s : State) :
    b32Chars strip opc cs (s.withLive c d0 d1) = (b32Chars strip opc cs s).withLive c d0 d1 := by
  induction cs generalizing s with
  | nil => rfl
  | cons ch cs ih =>
    unfold b32Chars
    rw [b32Char_withLive, ih, ih]
    show (if s.ksph = _ then _ else _) = _
    split_ifs <;> rfl

theorem msgPush_withLive (bs : List Byte) (opc : Byte) (c : Ctrl) (d0 d1 : Word) (s : State) :
    msgPush bs opc (s.withLive c d0 d1) = (msgPush bs opc s).withLive c d0 d1 := by
  unfold msgPush
  rw [recordError_withLive]
  show (if Config.maxMsgBytes < s.mcnt + _ then _ else _) = _
  split_ifs <;> rfl

/-! ### Other secrets (70_reset R244) -/

theorem recordError_withSecrets (code : ErrCode) (opc : Byte) (kp : List Byte) (x : Sha1Ctx) (d : Hash) (s : State) :
    recordError code opc (s.withSecrets kp x d) = (recordError code opc s).withSecrets kp x d := by
  unfold recordError State.withSecrets; dsimp only; split <;> rfl

theorem keyPush_withSecrets (b opc : Byte) (kp : List Byte) (x : Sha1Ctx) (d : Hash) (s : State) :
    keyPush b opc (s.withSecrets kp x d) = (keyPush b opc s).withSecrets kp x d := by
  unfold keyPush
  rw [recordError_withSecrets]
  show (if s.kcnt = _ then _ else if s.kcnt < _ then _ else if s.kcnt = _ then _ else _) = _
  split_ifs <;> rfl

theorem keyPushAll_withSecrets (bs : List Byte) (opc : Byte) (kp : List Byte) (x : Sha1Ctx) (d : Hash) (s : State) :
    keyPushAll bs opc (s.withSecrets kp x d) = (keyPushAll bs opc s).withSecrets kp x d := by
  induction bs generalizing s with
  | nil => rfl
  | cons b bs ih => rw [keyPushAll_cons, keyPush_withSecrets, ih]; rfl

theorem b32Value_withSecrets (v : BitVec 5) (opc : Byte) (kp : List Byte) (x : Sha1Ctx) (d : Hash) (s : State) :
    b32Value v opc (s.withSecrets kp x d) = (b32Value v opc s).withSecrets kp x d := by
  unfold b32Value
  rw [apply_ite (State.withSecrets kp x d), ← keyPush_withSecrets]
  rfl

theorem b32Char_withSecrets (strip : Bool) (ch opc : Byte) (kp : List Byte) (x : Sha1Ctx) (d : Hash) (s : State) :
    b32Char strip ch opc (s.withSecrets kp x d) = (b32Char strip ch opc s).withSecrets kp x d := by
  unfold b32Char
  cases charClass strip ch
  · exact b32Value_withSecrets ..
  · rfl
  · rw [recordError_withSecrets]; rfl

theorem b32Chars_withSecrets (strip : Bool) (opc : Byte) (cs : List Byte) (kp : List Byte) (x : Sha1Ctx) (d : Hash)
    (s : State) : b32Chars strip opc cs (s.withSecrets kp x d) = (b32Chars strip opc cs s).withSecrets kp x d := by
  induction cs generalizing s with
  | nil => rfl
  | cons ch cs ih =>
    unfold b32Chars
    rw [b32Char_withSecrets, ih, ih]
    show (if s.ksph = _ then _ else _) = _
    split_ifs <;> rfl

/-- The message counts and the error do not depend on the secrets; the inner hash does. -/
theorem msgPush_withSecrets (bs : List Byte) (opc : Byte) (kp : List Byte) (x : Sha1Ctx) (d : Hash) (s : State) :
    ∃ y, msgPush bs opc (s.withSecrets kp x d) = (msgPush bs opc s).withSecrets kp y d := by
  unfold msgPush
  rw [recordError_withSecrets]
  show ∃ y, (if Config.maxMsgBytes < s.mcnt + bs.length then _ else _) = _
  split_ifs with h
  · exact ⟨(closeHmac s).ictx, by simp [closeHmac, State.withSecrets]⟩
  · exact ⟨x.absorbAll bs, rfl⟩

/-! ### Another error record, ERR being 1 (60_exceptions R219) -/

theorem recordError_withError (code c : ErrCode) (opc o : Byte) (s : State) :
    recordError code opc (s.withError true c o) = (recordError code opc s).withError true c o := by
  unfold recordError
  by_cases h : s.err = true
  · rw [if_pos h]; rfl
  · rw [if_neg h]; rfl

theorem keyPush_withError (b opc : Byte) (c : ErrCode) (o : Byte) (s : State) :
    keyPush b opc (s.withError true c o) = (keyPush b opc s).withError true c o := by
  unfold keyPush
  rw [recordError_withError]
  show (if s.kcnt = _ then _ else if s.kcnt < _ then _ else if s.kcnt = _ then _ else _) = _
  split_ifs <;> rfl

theorem keyPushAll_withError (bs : List Byte) (opc : Byte) (c : ErrCode) (o : Byte) (s : State) :
    keyPushAll bs opc (s.withError true c o) = (keyPushAll bs opc s).withError true c o := by
  induction bs generalizing s with
  | nil => rfl
  | cons b bs ih => rw [keyPushAll_cons, keyPush_withError, ih]; rfl

theorem b32Value_withError (v : BitVec 5) (opc : Byte) (c : ErrCode) (o : Byte) (s : State) :
    b32Value v opc (s.withError true c o) = (b32Value v opc s).withError true c o := by
  unfold b32Value
  rw [apply_ite (State.withError true c o), ← keyPush_withError]
  rfl

theorem b32Char_withError (strip : Bool) (ch opc : Byte) (c : ErrCode) (o : Byte) (s : State) :
    b32Char strip ch opc (s.withError true c o) = (b32Char strip ch opc s).withError true c o := by
  unfold b32Char
  cases charClass strip ch
  · exact b32Value_withError ..
  · rfl
  · rw [recordError_withError]; rfl

theorem b32Chars_withError (strip : Bool) (opc : Byte) (cs : List Byte) (c : ErrCode) (o : Byte) (s : State) :
    b32Chars strip opc cs (s.withError true c o) = (b32Chars strip opc cs s).withError true c o := by
  induction cs generalizing s with
  | nil => rfl
  | cons ch cs ih =>
    unfold b32Chars
    rw [b32Char_withError, ih, ih]
    show (if s.ksph = _ then _ else _) = _
    split_ifs <;> rfl

theorem msgPush_withError (bs : List Byte) (opc : Byte) (c : ErrCode) (o : Byte) (s : State) :
    msgPush bs opc (s.withError true c o) = (msgPush bs opc s).withError true c o := by
  unfold msgPush
  rw [recordError_withError]
  show (if Config.maxMsgBytes < s.mcnt + _ then _ else _) = _
  split_ifs <;> rfl

end Sys2Proof.Machine
end

