-- ==== Sys2Proof/Tests/Slice0.lean ====
section
/-! SUPPORT. Tests: the ill-formed statements, one decoding per command, one or two single steps per command with values
from 95_test_vectors, and for every obligation with hypotheses a state that meets them. -/

namespace Sys2Proof.Tests

set_option Elab.async false

open Sys2Proof Sys2Proof.Machine

/-! ### Helpers -/

/-- Does the outcome answer a next state with a property? -/
def nextIs (o : Host.Outcome State Fault Refusal) (ok : State → Bool) : Bool :=
  match o with
  | .next t => ok t
  | .fault _ | .refused _ => false

/-- One step that completes the command word `w` in state `s`. -/
def runs (w : Nat) (s : State) (ok : State → Bool) : Bool := nextIs (step (s.withFetchWord 32 w)) ok

/-- Bytes from numbers. -/
def bytes (ns : List Nat) : List Byte := ns.map (BitVec.ofNat 8)

/-- `n` copies of "a". -/
def someAs (n : Nat) : List Byte := List.replicate n 0x61#8

/-- A session in phase `ph` with `n` staged bytes 0xAA and `k` leftover zero bits. -/
def session (ph : Phase) (n k : Nat) : State :=
  { State.reset with
    ksph := ph, kcnt := n, nbits := k
    kraw := List.replicate (min n 64) 0xAA#8
    kctx := Sha1Ctx.init.absorbAll (List.replicate (if 64 < n then n else 0) 0xAA#8) }

/-- A session whose count is close to its limit, with nothing to hash. -/
def bigSession (ph : Phase) (n : Nat) : State :=
  { State.reset with ksph := ph, kcnt := n, kraw := List.replicate 64 0xAA#8 }

/-- A committed key. -/
def keyed (key : List Byte) : State :=
  { State.reset with kvalid := true, kp := expandKey key, klen := BitVec.ofNat 32 key.length }

/-- An open computation over a message. -/
def hashing (key msg : List Byte) : State :=
  { keyed key with
    hact := true, mcnt := msg.length, ictx := Sha1Ctx.init.absorbAll (innerKey (expandKey key) ++ msg) }

/-- The key of 95 section 1 row 7, "Hello!" and DE AD BE EF. -/
def helloKey : List Byte := bytes [0x48, 0x65, 0x6C, 0x6C, 0x6F, 0x21, 0xDE, 0xAD, 0xBE, 0xEF]

/-- With an error on record (95 section 7: INVALID_CHAR by BCHAR). -/
def erring (s : State) : State := { s with err := true, errCode := .invalidChar, errOpc := 0x21#8 }

/-- With a command in flight and one input of the host to come. -/
def inFlight (w : Word) (d : Nat) (ins : List Input) (s : State) : State :=
  { s with pend := some { word := w, latch := s.liveLatch, delay := d }, inputs := ins }

/-! ### Well-formedness: one ill-formed statement per check -/

theorem test_wr_value_too_wide : Stmt.error (.wr .DATA0 (2 ^ 32)) = some .valueTooWide := by decide
theorem test_imm_not_taken : Stmt.error (.cmd .NOP (some 1)) = some .immNotTaken := by decide
theorem test_imm_too_wide : Stmt.error (.cmd .KBYTE (some 256)) = some .immTooWide := by decide
theorem test_char_too_wide : Stmt.error (.bstr ['A', Char.ofNat 0x100]) = some .charTooWide := by decide
theorem test_byte_too_wide : Stmt.error (.kstr [0xFF, 0x100]) = some .byteTooWide := by decide
theorem test_counter_too_wide : Stmt.error (.ldctr (2 ^ 64)) = some .counterTooWide := by decide
theorem test_well_formed_statements :
    Stmt.wellFormed (.wr .DATA0 (2 ^ 32 - 1)) = true ∧ Stmt.wellFormed (.cmd .KBYTE (some 255)) = true ∧
    Stmt.wellFormed (.cmd .NOP none) = true ∧ Stmt.wellFormed (.bstr ['M', 'Y', '=']) = true ∧
    Stmt.wellFormed (.kstr [0, 255]) = true ∧ Stmt.wellFormed (.ldctr (2 ^ 64 - 1)) = true := by decide

/-! ### Decoding: OPC, RSV, IMM8 written out from 30_encoding R80 and R84 -/

theorem test_decode_nop : decode 0b00000000_0000000000000000_00000000 = .command .nop := by decide
theorem test_decode_srst : decode 0b00000001_0000000000000000_00000000 = .command .srst := by decide
theorem test_decode_eclr : decode 0b00000010_0000000000000000_00000000 = .command .eclr := by decide
theorem test_decode_kbegin : decode 0b00010000_0000000000000000_00000000 = .command .kbegin := by decide
theorem test_decode_kbyte : decode 0b00010001_0000000000000000_10000001 = .command (.kbyte 0x81) := by decide
theorem test_decode_kword : decode 0b00010010_0000000000000000_00000000 = .command .kword := by decide
theorem test_decode_kend : decode 0b00010011_0000000000000000_00000000 = .command .kend := by decide
theorem test_decode_bbegin : decode 0b00100000_0000000000000000_00000000 = .command .bbegin := by decide
theorem test_decode_bchar : decode 0b00100001_0000000000000000_01000111 = .command (.bchar 0x47) := by decide
theorem test_decode_bword : decode 0b00100010_0000000000000000_00000000 = .command .bword := by decide
theorem test_decode_bend : decode 0b00100011_0000000000000000_00000000 = .command .bend := by decide
theorem test_decode_hstart : decode 0b00110000_0000000000000000_00000000 = .command .hstart := by decide
theorem test_decode_mbyte : decode 0b00110001_0000000000000000_01110111 = .command (.mbyte 0x77) := by decide
theorem test_decode_mword : decode 0b00110010_0000000000000000_00000000 = .command .mword := by decide
theorem test_decode_mctr : decode 0b00110011_0000000000000000_00000000 = .command .mctr := by decide
theorem test_decode_hfinish : decode 0b00110100_0000000000000000_00000000 = .command .hfinish := by decide

/-- Every bit of RSV, the unused IMM8 of KEND, and the edges of the reserved opcodes (R85, R86). -/
theorem test_decode_illegal :
    (List.range 16).all (fun k => decode (0x11000000 ||| (1 <<< (8 + k))) = .illegal .nonzeroRsv) = true ∧
    decode 0x13000001 = .illegal .nonzeroImm ∧
    [0x03, 0x0F, 0x14, 0x1F, 0x24, 0x2F, 0x35, 0xFF].all
      (fun o => decode (BitVec.ofNat 32 (o * 2 ^ 24)) = .illegal .reservedOpcode) = true := by decide +kernel

theorem test_table_word : decodeTableWord 32 0x11000041 = some (.kbyte 0x41) ∧ decodeTableWord 32 0x03000000 = none := by
  decide

/-! ### SHA-1 (95 section 2) -/

/-- 2.3: the schedule of the "abc" block. -/
theorem test_schedule_of_abc :
    let w := schedule (be32Words (bytes [0x61, 0x62, 0x63, 0x80] ++ zeros 59 ++ [0x18]))
    (w.getD 15 0, w.getD 16 0, w.getD 17 0, w.getD 18 0, w.getD 19 0, w.getD 20 0, w.getD 79 0) =
      (0x00000018, 0xC2C4C700, 0x00000000, 0x00000030, 0x85898E01, 0x00000000, 0x822E0879) := by decide +kernel

/-- 2.3: round 0 of the "abc" block. -/
theorem test_round_of_abc :
    sha1Round 0 0x61626380 sha1IV = ⟨0x0116FC33, 0x67452301, 0x7BF36AE2, 0x98BADCFE, 0x10325476⟩ := by decide +kernel

/-- 2.3: rounds 39 and 40, 59 and 60 change f and K. -/
theorem test_rounds_change_function :
    (sha1Round 20 0 ⟨0xFD9E1D7D, 0xDC64901D, 0x20AA99CA, 0xD3A49608, 0xC82F758B⟩).h0 = 0x1A37B0CA ∧
    roundConst 39 = 0x6ED9EBA1 ∧ roundConst 40 = 0x8F1BBCDC ∧ roundConst 59 = 0x8F1BBCDC ∧ roundConst 60 = 0xCA62C1D6 ∧
    roundConst 19 = 0x5A827999 ∧ roundFun 40 1 1 0 = 1 ∧ roundFun 60 1 1 0 = 0 ∧ roundFun 19 0 1 1 = 1 ∧
    roundFun 20 0 1 1 = 0 := by decide +kernel

/-- 2.1: "" and "abc". -/
theorem test_sha1_digests :
    Hash.ofBytes (sha1 []) = ⟨0xda39a3ee, 0x5e6b4b0d, 0x3255bfef, 0x95601890, 0xafd80709⟩ ∧
    Hash.ofBytes (sha1 (bytes [0x61, 0x62, 0x63])) = ⟨0xa9993e36, 0x4706816a, 0xba3e2571, 0x7850c26c, 0x9cd0d89d⟩ := by
  decide +kernel

/-- 2.2: the padding boundaries. -/
theorem test_sha1_padding_boundaries :
    Hash.ofBytes (sha1 (someAs 55)) = ⟨0xc1c8bbdc, 0x22796e28, 0xc0e15163, 0xd20899b6, 0x5621d65a⟩ ∧
    Hash.ofBytes (sha1 (someAs 56)) = ⟨0xc2db330f, 0x6083854c, 0x99d4b5bf, 0xb6e8f29f, 0x201be699⟩ ∧
    Hash.ofBytes (sha1 (someAs 64)) = ⟨0x0098ba82, 0x4b5c1642, 0x7bd7a112, 0x2a5a442a, 0x25ec644d⟩ ∧
    Hash.ofBytes (sha1 (someAs 120)) = ⟨0xf34c1488, 0x385346a5, 0x5709ba05, 0x6ddd0828, 0x0dd4c6d6⟩ := by
  decide +kernel

/-! ### Commands, one step each -/

/-- 95 section 6. -/
theorem test_nop : runs 0x00000000 State.reset (fun t => t.statusWord == 0 && t.pend.isNone) = true := by decide +kernel

/-- R100: NOP keeps an error record. -/
theorem test_nop_keeps_the_error : runs 0x00000000 (erring .reset) (fun t => t.statusWord == 0x21100008) = true := by
  decide +kernel

/-- 95 section 6: SRST. -/
theorem test_srst :
    runs 0x01000000 { erring (hashing helloKey []) with data0 := 7, dvalid := true, dig := ⟨1, 2, 3, 4, 5⟩ }
      (fun t => t.statusWord == 0 && t.klen == 0 && t.mlen == 0 && t.dig == ⟨0, 0, 0, 0, 0⟩ && t.data0 == 7 &&
        t.ctrl.word == 4) = true := by decide +kernel

/-- 95 section 6: ECLR after program P3 keeps the key and the digest. -/
theorem test_eclr :
    runs 0x02000000 { erring (keyed helloKey) with dvalid := true, dig := ⟨1, 2, 3, 4, 5⟩ }
      (fun t => t.statusWord == 0x00000006 && t.klen == 10 && t.dig.h4 == 5) = true := by decide +kernel

/-- 95 section 4: KBEGIN opens a raw session; a session in progress is discarded (R147). -/
theorem test_kbegin :
    runs 0x10000000 (session .b32 3 4) (fun t => t.statusWord == 0x00000010 && t.kraw == [] && t.acc == 0) = true := by
  decide +kernel

/-- 95 section 4: KBYTE 0x4A from reset. -/
theorem test_kbyte_without_session : runs 0x1100004A State.reset (fun t => t.statusWord == 0x11030008) = true := by
  decide +kernel

/-- 95 section 7: LENGTH at KCNT = MAX_KEY_BYTES. -/
theorem test_kbyte_at_the_limit :
    runs 0x11000000 (bigSession .raw (2 ^ 61 - 1)) (fun t => t.statusWord == 0x112000B8 && t.kcnt == 2 ^ 61 - 1) = true := by
  decide +kernel

/-- 95 section 4: KWORD in a Base32 session. -/
theorem test_kword_in_base32 : runs 0x12000000 (session .b32 0 0) (fun t => t.statusWord == 0x12030028) = true := by
  decide +kernel

/-- 95 program P4: the seventeenth KWORD makes the key long; the running hash is that of all 68 bytes. -/
theorem test_kword_makes_the_key_long :
    runs 0x12000000 { session .raw 64 0 with data0 := 0xAAAAAAAA }
      (fun t => t.statusWord == 0x00000090 && t.kraw.length == 64 && t.kctx.cnt == 68 &&
        t.kctx.buf == List.replicate 4 0xAA#8) = true := by decide +kernel

/-- 95 section 4: an empty raw key commits. -/
theorem test_kend_empty :
    runs 0x13000000 (session .raw 0 0) (fun t => t.statusWord == 0x00000002 && t.klen == 0 && t.kp == zeros 64) = true := by
  decide +kernel

/-- 95 program P4: KEND of 80 bytes 0xAA; KP begins with SHA1(0xAA x 80). -/
theorem test_kend_long :
    runs 0x13000000 (session .raw 80 0)
      (fun t => t.statusWord == 0x00000002 && t.klen == 80 &&
        Hash.ofBytes t.kp == ⟨0x4ca0ef38, 0xf1794b28, 0xa8f8ee11, 0x0ee79d48, 0xce13be25⟩ && t.kp.drop 20 == zeros 44) = true := by
  decide +kernel

/-- 95 section 3.1. -/
theorem test_bbegin : runs 0x20000000 State.reset (fun t => t.statusWord == 0x00000020) = true := by decide +kernel

/-- 95 section 3.1: 'E' after 'G' gives the byte 0x31; '=' with STRIP = 0. -/
theorem test_bchar :
    runs 0x21000045 { session .b32 0 5 with acc := 6 }
      (fun t => t.statusWord == 0x00000220 && t.kraw == [0x31#8] && t.acc == 0) = true ∧
    runs 0x2100003D { session .b32 0 0 with ctrl := { mode := .strict, strip := false } }
      (fun t => t.statusWord == 0x21100038) = true := by decide +kernel

/-- 95 section 3.1: "GEZD"; "OI" and two fillers. -/
theorem test_bword :
    runs 0x22000000 { session .b32 0 0 with data0 := 0x47455A44 }
      (fun t => t.statusWord == 0x00000420 && t.kraw == [0x31#8, 0x32#8] && t.acc == 3) = true ∧
    runs 0x22000000 { session .b32 0 0 with data0 := 0x4F490000 }
      (fun t => t.statusWord == 0x00000220 && t.kraw == [0x72#8] && t.acc == 0) = true := by decide +kernel

/-- 95 section 7: FRACTIONAL before EMPTY in STRICT; RFC reports EMPTY. -/
theorem test_bend_errors :
    runs 0x23000000 (session .b32 0 5) (fun t => t.statusWord == 0x23110008) = true ∧
    runs 0x23000000 { session .b32 0 5 with ctrl := { mode := .rfc, strip := true } }
      (fun t => t.statusWord == 0x23120008) = true := by decide +kernel

/-- 95 program P5: "foobar" with two leftover bits in LEGACY. -/
theorem test_bend_legacy :
    runs 0x23000000
      { session .b32 6 2 with
        kraw := bytes [0x66, 0x6F, 0x6F, 0x62, 0x61, 0x72], ctrl := { mode := .legacy, strip := true } }
      (fun t => t.statusWord == 0x00000002 && t.klen == 6 &&
        t.kp == bytes [0x66, 0x6F, 0x6F, 0x62, 0x61, 0x72] ++ zeros 58) = true := by decide +kernel

/-- 95 section 5.5. -/
theorem test_hstart_without_key : runs 0x30000000 State.reset (fun t => t.statusWord == 0x30030008) = true := by
  decide +kernel

/-- 95 section 5.5: HSTART while HACT = 1 restarts the computation. -/
theorem test_hstart_restarts :
    runs 0x30000000 (hashing helloKey (someAs 3))
      (fun t => t.statusWord == 0x00000042 && t.mlen == 0 && t.ictx.cnt == 64) = true := by decide +kernel

/-- 95 section 5.5. -/
theorem test_mbyte_without_computation : runs 0x31000077 State.reset (fun t => t.statusWord == 0x31030008) = true := by
  decide +kernel

/-- R194, R198: MBYTE beyond MAX_MSG_BYTES records LENGTH and closes the computation. -/
theorem test_mbyte_at_the_limit :
    runs 0x31000077 { hashing helloKey [] with mcnt := 2 ^ 61 - 65 }
      (fun t => t.statusWord == 0x3120000A && t.mcnt == 2 ^ 61 - 65) = true := by decide +kernel

/-- 95 program P4: "Test", most significant byte first. -/
theorem test_mword :
    runs 0x32000000 { hashing helloKey [] with data0 := 0x54657374 }
      (fun t => t.mlen == 4 && t.ictx.buf == bytes [0x54, 0x65, 0x73, 0x74]) = true := by decide +kernel

/-- 95 program P1: the counter message. -/
theorem test_mctr :
    runs 0x33000000 { hashing helloKey [] with data1 := 0, data0 := 0x0273EF07 }
      (fun t => t.mlen == 8 && t.ictx.buf == bytes [0, 0, 0, 0, 0x02, 0x73, 0xEF, 0x07]) = true := by decide +kernel

/-- 95 program P1: the digest. -/
theorem test_hfinish :
    runs 0x34000000 (hashing helloKey (bytes [0, 0, 0, 0, 0x02, 0x73, 0xEF, 0x07]))
      (fun t => t.statusWord == 0x00000006 && t.mlen == 8 &&
        t.dig == ⟨0x96B1BE00, 0xBDA9C81C, 0xFC4A58F0, 0xAD9FF12F, 0x5ECE03EF⟩) = true := by decide +kernel

/-- 95 section 8: with ERR = 1 HFINISH publishes nothing (STATUS 0x3302000A). -/
theorem test_hfinish_suppressed :
    runs 0x34000000 { hashing helloKey [] with err := true, errCode := .busy, errOpc := 0x33#8 }
      (fun t => t.statusWord == 0x3302000A && t.dig == ⟨0, 0, 0, 0, 0⟩) = true := by decide +kernel

/-- 95 section 7: illegal words, ILLEGAL before SEQUENCE. -/
theorem test_illegal_words :
    runs 0x03000000 State.reset (fun t => t.statusWord == 0x03010008) = true ∧
    runs 0x30000100 State.reset (fun t => t.statusWord == 0x30010008) = true ∧
    runs 0xFF0000FF State.reset (fun t => t.statusWord == 0xFF010008) = true ∧
    runs 0x00000001 State.reset (fun t => t.statusWord == 0x00010008) = true := by decide +kernel

/-! ### The window (95 section 8) -/

theorem test_reset_reads :
    readReg 0x00 State.reset = 0x48534231 ∧ readReg 0x04 State.reset = 0x00000004 ∧
    readReg 0x08 State.reset = 0 ∧ readReg 0x0C State.reset = 0 ∧ readReg 0x34 State.reset = 0 := by decide +kernel

theorem test_ctrl_writes :
    readReg 0x04 (writeReg 0x04 0xFFFFFFFF State.reset) = 0x00000004 ∧
    readReg 0x04 (writeReg 0x04 0x00000001 State.reset) = 0x00000001 ∧
    readReg 0x08 (writeReg 0x08 0xFFFFFFFF State.reset) = 0 := by decide +kernel

/-- The dropped command: BUSY at once, with ERROPC 0x33. -/
theorem test_cmd_write_dropped :
    readReg 0x08 (writeReg 0x0C 0x33000000 (inFlight 0x30000000 3 [] (keyed helloKey))) = 0x3302000B := by decide +kernel

/-- The accepted command keeps the DATA0 of its acceptance. -/
theorem test_cmd_write_latches :
    let s := writeReg 0x10 0x59334450 (writeReg 0x0C 0x22000000 (writeReg 0x10 0x4A425357 (session .b32 0 0)))
    s.latched.data0 = 0x4A425357 ∧ readReg 0x10 s = 0x59334450 ∧ (readReg 0x08 s).getLsbD 0 = true := by decide +kernel

/-- R89, R90: what `BCHAR 'G'` and `LDCTR` assemble to. -/
theorem test_assemble :
    assemble (.cmd .BCHAR (some 0x47)) = .ok [.poll, .write (Config.base + 0x0C) 4 0x21000047] ∧
    assemble (.ldctr 0x10273EF07) =
      .ok [.write (Config.base + 0x14) 4 0x00000001, .write (Config.base + 0x10) 4 0x0273EF07,
        .poll, .write (Config.base + 0x0C) 4 0x33000000] := ⟨rfl, rfl⟩

/-- R89: an imm outside 0..255 and an imm that is not taken are assembly errors, and the program does not run. -/
theorem test_assembly_errors :
    assemble (.cmd .KBYTE (some 256)) = .error .immTooWide ∧ assemble (.cmd .NOP (some 1)) = .error .immNotTaken ∧
    State.withProgram [.cmd .KBEGIN none, .cmd .KBYTE (some 256), .check] State.reset = .error .immTooWide :=
  ⟨rfl, rfl, rfl⟩

/-! ### The host's reference functions (95 sections 1 and 5) -/

/-- Section 1 row 7 and section 5.3, t = 1234567890: code "005924" keeps its leading zeros. -/
theorem test_codes :
    timeCounter 1234567890 = 0x0273EF07 ∧
    otpString (Hash.bytes ⟨0x96B1BE00, 0xBDA9C81C, 0xFC4A58F0, 0xAD9FF12F, 0x5ECE03EF⟩) = ['7', '4', '2', '2', '7', '5'] ∧
    otpString (Hash.bytes ⟨0x907cd1a9, 0x116564ec, 0xb9d5d178, 0x0325f246, 0x173fe703⟩) = ['0', '0', '5', '9', '2', '4'] := by
  decide +kernel

theorem test_seconds : secondsUntilNextStep 0 = 30 ∧ secondsUntilNextStep 29 = 1 ∧ secondsUntilNextStep 30 = 30 := by decide

/-! ### Witnesses: states that meet the hypotheses of the obligations -/

/-- A state in which the host moves, idle or with a command in flight. -/
theorem host_moves_idle (ins : List Input) : HostMoves { State.reset with inputs := ins } :=
  ⟨rfl, fun _ h => by cases h⟩

theorem host_moves_busy (w : Word) (d : Nat) (ins : List Input) (s : State) (h : s.inReset = false) :
    HostMoves (inFlight w (d + 1) ins s) :=
  ⟨h, fun p hp => by injection hp with hp; subst hp; exact Nat.succ_ne_zero d⟩

/-- A state in which the engine moves, with no delay left or nothing for the host to do. -/
theorem engine_moves_due (w : Word) (ins : List Input) :
    EngineMoves { word := w, latch := State.reset.liveLatch, delay := 0 } (inFlight w 0 ins State.reset) :=
  ⟨rfl, rfl, .inr rfl⟩

theorem engine_moves_alone (w : Word) (d : Nat) :
    EngineMoves { word := w, latch := State.reset.liveLatch, delay := d } (inFlight w d [] State.reset) :=
  ⟨rfl, rfl, .inl rfl⟩

theorem wit_EachCommandHasOneWord : decode 0x110000FF = .command (.kbyte 0xFF) := by decide

theorem wit_IllegalWordsRecordIllegal :
    EngineMoves { word := 0x03000000, latch := State.reset.liveLatch, delay := 0 } (inFlight 0x03000000 0 [.poll] State.reset) ∧
    ∀ i, decode 0x03000000 ≠ .command i :=
  ⟨engine_moves_due _ _, fun _ h => Decoded.noConfusion (show Decoded.illegal .reservedOpcode = _ from h)⟩

theorem wit_TableRowsDoNotOverlap :
    (0x110000FF : Word) &&& Mnemonic.KBYTE.mask = encodeParts .KBYTE 0 ∧ (0x13000000 : Word) &&& Mnemonic.KEND.mask = encodeParts .KEND 0 := by
  decide

/-- KBYTE's clauses: the phases, and KeyPushed at 63, 64, 65 bytes and at the limit. -/
theorem wit_KbyteAppendsItsByte :
    (session .failed 3 0).ksph = .failed ∧ State.reset.ksph = .idle ∧ (session .b32 0 0).ksph = .b32 ∧
    (session .raw 63 0).ksph = .raw ∧ (session .raw 63 0).kcnt < 64 ∧ (session .raw 64 0).kcnt = 64 ∧
    64 < (session .raw 65 0).kcnt ∧ (bigSession .raw (2 ^ 61 - 1)).kcnt = Config.maxKeyBytes ∧
    (bigSession .raw (2 ^ 61 - 2)).kcnt ≠ Config.maxKeyBytes ∧ State.reset.err = false ∧ (erring .reset).err = true := by
  decide +kernel

/-- KWORD's clauses: a pending command, the phases, and the counts on both sides of the limit. -/
theorem wit_KwordAppendsFourBytesOrNone :
    let go (s : State) := inFlight 0x12000000 0 [] s
    (go (session .raw 62 0)).pend.isSome ∧ (go (session .failed 0 0)).ksph = .failed ∧
    (go State.reset).ksph = .idle ∧ (go (session .b32 0 0)).ksph = .b32 ∧
    (go (bigSession .raw (2 ^ 61 - 4))).ksph = .raw ∧ Config.maxKeyBytes < (go (bigSession .raw (2 ^ 61 - 4))).kcnt + 4 ∧
    (go (bigSession .raw (2 ^ 61 - 5))).kcnt + 4 ≤ Config.maxKeyBytes := by decide +kernel

theorem wit_KendCommitsTheRawKey :
    (session .failed 3 0).ksph = .failed ∧ State.reset.ksph = .idle ∧ (session .b32 0 0).ksph = .b32 ∧
    (session .raw 0 0).ksph = .raw ∧ (session .raw 64 0).kcnt ≤ 64 ∧ 64 < (session .raw 65 0).kcnt := by decide +kernel

/-- BCHAR's clauses: SKIP, BAD, a value with two bits held and with three. -/
theorem wit_BcharDecodesItsCharacter :
    let go (s : State) := inFlight 0x21000047 0 [] s
    (go (session .b32 0 7)).pend.isSome ∧ (go (session .b32 0 7)).nbits ≤ 7 ∧
    (go (session .b32 0 7)).acc.toNat < 2 ^ (go (session .b32 0 7)).nbits ∧ (go (session .b32 0 7)).ksph = .b32 ∧
    (go (session .failed 0 7)).ksph = .failed ∧ (go State.reset).ksph = .idle ∧ (go (session .raw 0 0)).ksph = .raw ∧
    charClass true 0x3D = .skip ∧ charClass false 0x3D = .bad ∧ charClass true 0x47 = .value 6 ∧
    (go (session .b32 0 2)).nbits < 3 ∧ 3 ≤ (go (session .b32 0 3)).nbits := by decide +kernel

/-- BWORD's clauses: as BCHAR's, with a filler and with a session that fails at the first of the four. -/
theorem wit_BwordDecodesFourCharacters :
    let go (s : State) := inFlight 0x22000000 0 [] s
    (go (session .b32 0 7)).pend.isSome ∧ (go (session .b32 0 7)).nbits ≤ 7 ∧
    (go (session .b32 0 7)).acc.toNat < 2 ^ (go (session .b32 0 7)).nbits ∧ (go (session .b32 0 7)).ksph = .b32 ∧
    (go (session .failed 0 7)).ksph = .failed ∧ (go State.reset).ksph = .idle ∧ (go (session .raw 0 0)).ksph = .raw ∧
    runs 0x22000000 { session .b32 0 0 with data0 := 0x31474747 } (fun t => t.ksph == .failed && t.nbits == 0) = true := by
  decide +kernel

/-- BEND's clauses: each mode on both sides of its length rule, with and without a decoded byte. -/
theorem wit_BendAppliesTheLengthRule :
    let go (m : B32Mode) (n k : Nat) := inFlight 0x23000000 0 [] { session .b32 n k with ctrl := { mode := m, strip := true } }
    (go .strict 1 1).pend.isSome ∧ (go .strict 1 1).latched.ctrl.mode = .strict ∧ (go .strict 1 1).nbits ≠ 0 ∧
    (go .strict 1 0).nbits = 0 ∧ (go .legacy 1 4).latched.ctrl.mode = .legacy ∧ 4 ≤ (go .legacy 1 4).nbits ∧
    (go .legacy 1 3).nbits < 4 ∧ (go .rfc 1 7).latched.ctrl.mode = .rfc ∧ (go .rfc 0 7).kcnt = 0 ∧ (go .rfc 1 7).kcnt ≠ 0 ∧
    (go .rfc 1 7).ksph = .b32 ∧ (session .failed 0 0).ksph = .failed ∧ State.reset.ksph = .idle ∧
    (session .raw 0 0).ksph = .raw := by decide +kernel

theorem wit_LookupTableIsTheAlphabet :
    let other (c : Byte) : Bool := !(0x41#8 ≤ c && c ≤ 0x5A#8) && !(0x61#8 ≤ c && c ≤ 0x7A#8) &&
      !(0x32#8 ≤ c && c ≤ 0x37#8) && !([0x09#8, 0x0A#8, 0x0D#8, 0x20#8, 0x3D#8].contains c)
    [0x00#8, 0x31#8, 0x38#8, 0x40#8, 0x5B#8, 0x60#8, 0x7B#8, 0xFF#8].all other = true := by decide

theorem wit_LegacyAcceptsWholeNibblePairs :
    lenOk .legacy (5 * 7 % 8) = true ∧ lenOk .legacy (5 * 4 % 8) = false ∧ lenOk .strict (5 * 8 % 8) = true := by decide

/-- "MZXW6YTBOI======": ten value characters, six SKIP, no BAD. -/
theorem wit_StringStagesTheBytesOfItsBits :
    let cs := bytes [0x4D, 0x5A, 0x58, 0x57, 0x36, 0x59, 0x54, 0x42, 0x4F, 0x49, 0x3D, 0x3D, 0x3D, 0x3D, 0x3D, 0x3D]
    let s := session .b32 0 0
    s.ksph = .b32 ∧ s.kcnt = 0 ∧ s.kraw = [] ∧ s.nbits = 0 ∧ s.acc = 0 ∧ (∀ c ∈ cs, charClass true c ≠ .bad) ∧
    bitsToBytes (charBits true cs) = bytes [0x66, 0x6F, 0x6F, 0x62, 0x61, 0x72] := by decide +kernel

theorem wit_RawSessionCommitsTheExpandedKey : (List.replicate 65 0xAA#8 : List Byte).length ≤ Config.maxKeyBytes := by decide

theorem wit_ExpandedKeysAreOneBlock :
    (someAs 64).length = 64 ∧ 64 < (someAs 65).length ∧ (someAs 63).length < 64 := by decide

theorem wit_ScheduleFollowsItsRecurrence : (List.replicate 16 0x61626380 : List Word).length = 16 := by decide

/-- Padding: 55 and 56 buffered bytes, and the first and last zero between 0x80 and the count after 3 bytes. -/
theorem wit_PaddingFillsOneOrTwoBlocks :
    let c (n : Nat) := Sha1Ctx.init.absorbAll (someAs n)
    (c 55).buf.length ≤ 55 ∧ 56 ≤ (c 56).buf.length ∧ (c 63).buf.length ≤ 63 ∧ (c 63).cnt < 2 ^ 61 ∧
    (c 3).buf.length + 1 ≤ 4 ∧ 55 < (c 3).tail.length - 8 ∧ (c 56).buf.length + 1 ≤ 119 ∧
    119 < (c 56).tail.length - 8 := by decide +kernel

theorem wit_HstartAbsorbsTheInnerKey : State.reset.kvalid = false ∧ (keyed helloKey).kvalid = true := by decide

/-- The message commands: no computation, one that has room for exactly the bytes, one that has not. -/
theorem wit_MessageCommandsAbsorbTheirBytes :
    let go (n : Nat) := inFlight 0x33000000 0 [] { keyed [] with hact := true, mcnt := n }
    State.reset.hact = false ∧ (go 0).pend.isSome ∧ (go 0).hact = true ∧
    (go (2 ^ 61 - 73)).mcnt + 8 ≤ Config.maxMsgBytes ∧ Config.maxMsgBytes < (go (2 ^ 61 - 72)).mcnt + 8 ∧
    (go (2 ^ 61 - 69)).mcnt + 4 ≤ Config.maxMsgBytes ∧ Config.maxMsgBytes < (go (2 ^ 61 - 68)).mcnt + 4 ∧
    (go (2 ^ 61 - 66)).mcnt + 1 ≤ Config.maxMsgBytes ∧ Config.maxMsgBytes < (go (2 ^ 61 - 65)).mcnt + 1 := by decide

theorem wit_CounterOperandIsBigEndian :
    let s := inFlight 0x33000000 0 [] { State.reset with data1 := 0xFFFFFFFF, data0 := 0xFFFFFFFE }
    s.pend.isSome ∧ 2 ^ 64 - 2 < 2 ^ 64 ∧ s.latched.data1 = BitVec.ofNat 32 ((2 ^ 64 - 2) / 2 ^ 32) ∧
    s.latched.data0 = BitVec.ofNat 32 ((2 ^ 64 - 2) % 2 ^ 32) := by decide

theorem wit_HfinishPublishesTheOuterHash :
    State.reset.hact = false ∧ (hashing [] []).hact = true ∧ (hashing [] []).err = false ∧
    (erring (hashing [] [])).err = true ∧ (erring (hashing [] [])).hact = true := by decide

/-- HSTART, then MBYTE, MCTR, an illegal word, ECLR, and a KEND and a BEND that commit nothing, offer nine bytes; HFINISH
ends. -/
theorem wit_CommandSequenceComputesHmac :
    let p (w : Word) : Pending := { word := w, latch := State.reset.liveLatch, delay := 0 }
    (keyed helloKey).kvalid = true ∧ (keyed helloKey).kp = expandKey helloKey ∧
    decode (p 0x30000000).word = .command .hstart ∧ decode (p 0x34000000).word = .command .hfinish ∧
    nextIs (completeAll [p 0x30000000] (keyed helloKey)) (fun t0 =>
      offeredMessage [p 0x31000077, p 0x33000000, p 0x03000000, p 0x02000000, p 0x13000000, p 0x20000000, p 0x21000041,
        p 0x23000000] t0 == some (0x77#8 :: zeros 8)) = true ∧
    (0x77#8 :: zeros 8).length ≤ Config.maxMsgBytes := ⟨rfl, rfl, rfl, rfl, by decide +kernel, by decide⟩

/-- The statements about `exec i s = next t`: commands that change what each lets change, and a FRACTIONAL BEND of a session
with a byte, which changes no key. -/
theorem wit_whole_machine_commands :
    (∃ t, exec .hfinish (hashing [] []) = .next t) ∧ (∃ t, exec .kend (session .raw 0 0) = .next t) ∧
    (∃ t, exec .mctr (inFlight 0x33000000 0 [] (hashing [] [])) = .next t) ∧
    nextIs (exec .bend (session .b32 1 4)) (fun t => !t.kvalid && t.errCode == .fractional) = true :=
  ⟨⟨_, rfl⟩, ⟨_, rfl⟩, ⟨_, rfl⟩, by decide +kernel⟩

/-- One command per error code of ErrorsHaveTheListedEffect, with a command pending and at most seven leftover bits:
SEQUENCE, INVALID_CHAR by BCHAR and at the third character of a BWORD, FRACTIONAL, EMPTY, LENGTH by a push, by a character
and in a message; and a SEQUENCE while ERR = 1 already. -/
theorem wit_ErrorsHaveTheListedEffect :
    let rec1 (i : Instr) (s : State) (c : ErrCode) :=
      nextIs (exec i (inFlight (encode i) 0 [] s)) (fun t => !s.err && s.nbits ≤ 7 && t.err && t.errCode == c)
    rec1 .hstart State.reset .sequence = true ∧ rec1 (.bchar 0x31) (session .b32 0 7) .invalidChar = true ∧
    rec1 .bword { session .b32 0 0 with data0 := 0x47453147 } .invalidChar = true ∧
    rec1 .bend (session .b32 0 5) .fractional = true ∧ rec1 .bend (session .b32 0 0) .empty = true ∧
    rec1 (.kbyte 0) (bigSession .raw (2 ^ 61 - 1)) .length = true ∧
    rec1 .kword (bigSession .raw (2 ^ 61 - 4)) .length = true ∧
    rec1 (.bchar 0x47) { bigSession .b32 (2 ^ 61 - 1) with nbits := 3 } .length = true ∧
    rec1 (.mbyte 0) { keyed [] with hact := true, mcnt := 2 ^ 61 - 65 } .length = true ∧
    (erring .reset).err = true ∧
    nextIs (exec .hstart ((erring .reset).withError false .none 0x00#8)) (fun t => t.err) = true := by decide +kernel

/-- R216: at a bad third character of BWORD the byte of the first two has been staged; R219: while ERR = 1 a bad character
still fails the session. -/
theorem test_failed_characters :
    runs 0x22000000 { session .b32 0 0 with data0 := 0x47453147 } (fun t => t.statusWord == 0x22100238 && t.kraw == [0x31#8]) = true ∧
    runs 0x21000031 { session .b32 0 0 with err := true, errCode := .busy, errOpc := 0x33#8 }
      (fun t => t.statusWord == 0x33020038) = true := by decide +kernel

/-- An error is kept by a NOP, cleared by an ECLR in flight, and by a reset. -/
theorem wit_TheFirstErrorIsKept :
    (∃ t, step (inFlight 0x00000000 0 [] (erring .reset)) = .next t) ∧ (erring .reset).err = true ∧
    (∃ t, step (inFlight 0x02000000 0 [] (erring .reset)) = .next t) ∧
    (∃ t, step { erring State.reset with inputs := [.assertReset] } = .next t) :=
  ⟨⟨_, rfl⟩, rfl, ⟨_, rfl⟩, ⟨_, rfl⟩⟩

theorem wit_LiveRegistersDoNotReachTheCommand :
    let s := inFlight 0x22000000 0 [] { session .b32 0 0 with data0 := 0x4A425357 }
    s.pend.isSome = true ∧ ∃ t, exec .bword s = .next t := ⟨rfl, _, rfl⟩

/-- HSTART, MBYTE and HFINISH complete from a keyed state; without the HFINISH no word of the list decodes to one. -/
theorem wit_TheKeyIsSeenOnlyThroughTheDigest :
    let p (w : Word) : Pending := { word := w, latch := State.reset.liveLatch, delay := 0 }
    (∃ t, completeAll [p 0x30000000, p 0x31000077, p 0x34000000] (keyed helloKey) = .next t) ∧
    (∀ q ∈ [p 0x30000000, p 0x31000077], decode q.word ≠ .command .hfinish) := ⟨⟨_, rfl⟩, by decide⟩

/-- Accesses at the first and the last register, idle and with a command in flight. -/
theorem wit_ReadReturnsTheRegister :
    HostMoves { State.reset with inputs := [.read (Config.base + 0) 4] } ∧
    HostMoves (inFlight 0x30000000 1 [.read (Config.base + 60) 4] State.reset) ∧ 60 % 4 = 0 ∧ 60 < 64 :=
  ⟨host_moves_idle _, host_moves_busy _ _ _ _ rfl, rfl, by decide⟩

/-- CTRL writes with each of the four values of B32MODE. -/
theorem wit_CtrlWriteRule :
    HostMoves { State.reset with inputs := [.write (Config.base + 0x04) 4 0x00000006] } ∧
    HostMoves (inFlight 0x23000000 1 [.write (Config.base + 0x04) 4 0xFFFFFFFF] State.reset) ∧
    (0x00000004 : Word).extractLsb' 0 2 = 0 ∧ (0x00000001 : Word).extractLsb' 0 2 = 1 ∧
    (0x00000006 : Word).extractLsb' 0 2 = 2 ∧ (0xFFFFFFFF : Word).extractLsb' 0 2 = 3 :=
  ⟨host_moves_idle _, host_moves_busy _ _ _ _ rfl, by decide, by decide, by decide, by decide⟩

/-- R211, R27, R25: STATUS of an EMPTY, a LENGTH and an ILLEGAL error in the phases FAILED, RAW and IDLE, and CTRL in LEGACY and
RFC, in numbers worked out by hand. -/
theorem test_codes_in_status :
    readReg 0x08 { session .failed 0 0 with err := true, errCode := .empty, errOpc := 0x23#8 } = 0x23120038 ∧
    readReg 0x08 { session .raw 0 0 with err := true, errCode := .length, errOpc := 0x11#8 } = 0x11200018 ∧
    readReg 0x08 { State.reset with err := true, errCode := .illegal, errOpc := 0xFF#8 } = 0xFF010008 ∧
    readReg 0x04 { State.reset with ctrl := { mode := .legacy, strip := false } } = 0x00000001 ∧
    readReg 0x04 { State.reset with ctrl := { mode := .rfc, strip := true } } = 0x00000006 := by decide +kernel

theorem wit_WritesReachOnlyTheWritableRegisters :
    HostMoves { State.reset with inputs := [.write (Config.base + 0x10) 4 7] } ∧
    HostMoves { State.reset with inputs := [.write (Config.base + 0x14) 4 7] } ∧
    HostMoves { State.reset with inputs := [.write (Config.base + 0x3C) 4 7] } ∧ 0x3C % 4 = 0 ∧ 0x3C < 64 ∧
    0x3C ≠ 0x04 ∧ 0x3C ≠ 0x0C :=
  ⟨host_moves_idle _, host_moves_idle _, host_moves_idle _, rfl, by decide, by decide, by decide⟩

theorem wit_CmdWriteIsAcceptedOrDropped :
    HostMoves { State.reset with inputs := [.write (Config.base + 0x0C) 4 0x03000000] } ∧ State.reset.pend = none ∧
    HostMoves (inFlight 0x30000000 1 [.write (Config.base + 0x0C) 4 0x33000000] State.reset) ∧
    (inFlight 0x30000000 1 [] State.reset).pend ≠ none :=
  ⟨host_moves_idle _, rfl, host_moves_busy _ _ _ _ rfl, by decide⟩

/-- One address past the window, a two-byte access, a misaligned one, and an access in reset. -/
theorem wit_AccessesNotAdmittedStop :
    HostMoves { State.reset with inputs := [.read (Config.base + 64) 4] } ∧
    HostMoves { State.reset with inputs := [.write (Config.base + 2) 2 0] } ∧ ¬ (2 : Nat) = 4 ∧
    (Config.base + 2) % 4 ≠ 0 ∧
    ({ State.reset with inReset := true, inputs := [.poll] } : State).inReset = true ∧ IsAccess .poll = true := by
  refine ⟨host_moves_idle _, host_moves_idle _, by decide, ?_, rfl, rfl⟩
  have := base_mod_four
  omega

/-- A DATA0 write while HSTART is in flight. -/
theorem wit_OnlyErrorAndLiveRegistersChangeInFlight :
    let s := inFlight 0x30000000 1 [.write (Config.base + 0x10) 4 7] State.reset
    s.inReset = false ∧ s.pend.isSome = true ∧ ∃ t, step s = .next t := by
  refine ⟨rfl, rfl, ?_⟩
  rw [step_of_hostMoves (host_moves_busy _ _ _ _ rfl) rfl]
  simp only [inputStep, inFlight, State.reset, Bool.false_eq_true, if_false]
  rw [access_at (by decide) (by decide)]
  exact ⟨_, rfl⟩

theorem wit_StepRunsThePendingCommand :
    EngineMoves { word := 0x00000000, latch := State.reset.liveLatch, delay := 5 } (inFlight 0x00000000 5 [] State.reset) ∧
    decode 0x00000000 = .command .nop ∧ ∃ t, exec .nop (inFlight 0x00000000 5 [] State.reset) = .next t :=
  ⟨engine_moves_alone _ _, by decide, _, rfl⟩

theorem wit_EveryAcceptedCommandCompletes :
    let s := inFlight 0x30000000 2 [.poll, .assertReset, .releaseReset] State.reset
    let t := inFlight 0x30000000 2 [.poll, .releaseReset] State.reset
    s.inReset = false ∧ s.pend.isSome = true ∧ (∀ inp ∈ s.inputs, Admitted inp = true) ∧
    t.inReset = false ∧ t.pend.isSome = true ∧ (∀ inp ∈ t.inputs, Admitted inp = true) ∧ .assertReset ∉ t.inputs := by
  decide

theorem wit_CommandStatementsAreNeverDropped :
    let s := inFlight 0x30000000 2 (asmCmd .BCHAR 0x47 ++ [.poll]) State.reset
    s.inReset = false ∧ s.inputs = asmCmd .BCHAR 0x47 ++ [.poll] := ⟨rfl, rfl⟩

/-- An imm for each kind of command statement, at the edge of its range, and a program with an error and one without. -/
theorem wit_CommandStatementsAssembleOrAreRefused :
    (Mnemonic.NOP ∉ [Mnemonic.KBYTE, .BCHAR, .MBYTE] ∧ Mnemonic.MBYTE ∈ [Mnemonic.KBYTE, .BCHAR, .MBYTE]) ∧
    ((255 : Nat) < 256 ∧ (256 : Nat) ≤ 256) ∧
    (∃ st ∈ [Stmt.check, .cmd .KBYTE (some 256)], st.error ≠ none) ∧
    ∀ st ∈ [Stmt.check, .cmd .KBYTE (some 255)], st.error = none := by decide

theorem wit_AdmittedStepsNeverStop :
    (State.reset.inReset = false → ∀ inp, State.reset.inputs.head? = some inp → Admitted inp = true) ∧
    (State.reset.inReset = true → ∀ inp, State.reset.inputs.head? = some inp → IsAccess inp = false) := by
  constructor
  · intro _ inp h; simp [State.reset] at h
  · intro h; simp [State.reset] at h

/-- Asserting reset with a command in flight, and again while it is asserted; releasing it from the reset values. -/
theorem wit_ResetInputTakesResetValues :
    HostMoves (inFlight 0x34000000 1 [.assertReset] (hashing [] [])) ∧
    ({ State.reset with inReset := true, inputs := [.assertReset] } : State).inReset = true ∧
    ({ State.reset with inReset := true, inputs := [.releaseReset] } : State).inputs = .releaseReset :: [] ∧
    AtResetValues { State.reset with inReset := true, inputs := [.releaseReset] } :=
  ⟨host_moves_busy _ _ _ _ rfl, rfl, rfl,
    ⟨rfl, ⟨rfl, rfl⟩, rfl, ⟨rfl, rfl, rfl⟩, ⟨rfl, rfl, rfl, rfl, rfl⟩, ⟨rfl, rfl⟩, ⟨rfl, rfl⟩, ⟨rfl, rfl⟩⟩⟩

/-- A state held in reset, and one that is not, both with a next state. -/
theorem wit_ResetHoldsItsValues :
    AtResetValues { State.reset with inReset := true } ∧
    (∃ t, step { State.reset with inReset := true, inputs := [.releaseReset] } = .next t) ∧
    (∃ t, step { keyed [] with inputs := [.assertReset] } = .next t) :=
  ⟨⟨rfl, ⟨rfl, rfl⟩, rfl, ⟨rfl, rfl, rfl⟩, ⟨rfl, rfl, rfl, rfl, rfl⟩, ⟨rfl, rfl⟩, ⟨rfl, rfl⟩, ⟨rfl, rfl⟩⟩, ⟨_, rfl⟩, ⟨_, rfl⟩⟩

/-- A keyed state with an open computation and a Base32 session is within the invariants of R42, and steps. -/
theorem wit_StepKeepsTheStatusInvariants :
    let s := inFlight 0x21000047 0 [] { hashing helloKey [] with ksph := .b32, kcnt := 65, nbits := 7 }
    StatusInv s ∧ ∃ t, step s = .next t :=
  ⟨⟨fun _ => rfl, fun h => Phase.noConfusion h, fun h => Phase.noConfusion h, by decide, fun _ => ⟨rfl, rfl⟩, fun _ => rfl,
    by decide⟩, _, rfl⟩

/-- A long raw key within the bounds, with a KWORD in flight. -/
theorem wit_StepKeepsTheSizes :
    let s := inFlight 0x12000000 0 [] (session .raw 65 0)
    SizeInv s ∧ ∃ t, step s = .next t := by
  refine ⟨⟨by decide +kernel, by decide +kernel, by decide +kernel, fun _ => ⟨⟨by decide +kernel, by decide +kernel⟩, by decide +kernel⟩,
    by decide +kernel, by decide, fun h => ?_⟩, _, rfl⟩
  exact absurd h (by decide)

/-- An open computation over nothing, under the empty key: the abstract view holds, and HFINISH publishes. -/
theorem hashing_has_the_abstract_view (w : Word) (d : Nat) (ins : List Input) :
    AbstractInv (inFlight w d ins (hashing [] [])) :=
  ⟨⟨[], rfl, rfl, fun h => absurd h (by decide)⟩, fun _ => ⟨[], rfl, rfl⟩,
    fun _ => ⟨[], rfl, by simp only [inFlight, hashing, keyed]⟩⟩

theorem wit_StepKeepsTheAbstractView :
    AbstractInv (inFlight 0x34000000 0 [] (hashing [] [])) ∧ ∃ t, step (inFlight 0x34000000 0 [] (hashing [] [])) = .next t :=
  ⟨hashing_has_the_abstract_view _ _ _, _, rfl⟩

theorem wit_PublishedDigestsAreHmacs :
    let s := inFlight 0x34000000 0 [] (hashing [] [])
    AbstractInv s ∧ s.kvalid = true ∧ s.hact = true ∧ s.err = false ∧ ∃ t, exec .hfinish s = .next t :=
  ⟨hashing_has_the_abstract_view _ _ _, rfl, rfl, rfl, _, rfl⟩

theorem wit_TruncationStaysInsideTheDigest : (zeros 20).length = 20 ∧ (zeros 19 ++ [0xFF#8]).length = 20 := by decide

theorem wit_CounterStaysWithinItsStep : 29 < secondsUntilNextStep 30 ∧ timeCounter (30 + 29) = timeCounter 30 := by decide

end Sys2Proof.Tests
end

section
/-! PROOFS. Family 10_state: the CTRL write rule (10_state R26), and the state right after reset with what the registers read
in it (R44). -/

namespace Sys2Proof.Machine

/-! ### CTRL field by field -/

/-- Offset 0x04 reads CTRL (R25). -/
@[simp] theorem readReg_ctrl (s : State) : readReg 0x04 s = s.ctrl.word := rfl

/-- Bit 2 of the CTRL word is STRIP (R25). -/
@[simp] theorem ctrl_word_strip (c : Ctrl) : c.word.getLsbD 2 = c.strip := by
  cases c with | mk m st => cases m <;> cases st <;> rfl

/-- Every two bits but 3 are those of a B32MODE (R25). -/
theorem exists_mode_of_ne_three {b : BitVec 2} (h : b ≠ 3) : ∃ m : B32Mode, b = m.bits := by
  have hb : b = 0 ∨ b = 1 ∨ b = 2 ∨ b = 3 := by revert b; decide
  rcases hb with rfl | rfl | rfl | rfl
  · exact ⟨.strict, rfl⟩
  · exact ⟨.legacy, rfl⟩
  · exact ⟨.rfc, rfl⟩
  · exact absurd rfl h

/-- A written mode that is not 3 becomes B32MODE (R26). -/
theorem ctrl_write_mode (c : Ctrl) {v : Word} {m : B32Mode} (h : v.extractLsb' 0 2 = m.bits) : (c.write v).mode = m := by
  cases m <;> simp only [Ctrl.write, h] <;> rfl

/-- A written mode of 3 leaves B32MODE as it was (R26). -/
theorem ctrl_write_mode_of_three (c : Ctrl) {v : Word} (h : v.extractLsb' 0 2 = 3) : (c.write v).mode = c.mode := by
  simp only [Ctrl.write, h]; rfl

/-- After a write of a mode that is not 3, CTRL reads that mode. -/
theorem ctrl_write_word_mode (c : Ctrl) {v : Word} (h : v.extractLsb' 0 2 ≠ 3) :
    (c.write v).word.extractLsb' 0 2 = v.extractLsb' 0 2 := by
  obtain ⟨m, hm⟩ := exists_mode_of_ne_three h
  rw [(ctrl_word_mode _).1, ctrl_write_mode c hm, hm]

/-- After a write of mode 3, CTRL reads the mode it had. -/
theorem ctrl_write_word_mode_of_three (c : Ctrl) {v : Word} (h : v.extractLsb' 0 2 = 3) :
    (c.write v).word.extractLsb' 0 2 = c.word.extractLsb' 0 2 := by
  rw [(ctrl_word_mode _).1, (ctrl_word_mode _).1, ctrl_write_mode_of_three c h]

/-! ### The step of a CTRL write -/

/-- When the host moves, a write to CTRL is done at once; a command in flight comes one step nearer to its completion. -/
theorem step_ctrl_write {s : State} {v : Word} {rest : List Input} (h : HostMoves s)
    (hi : s.inputs = .write (Config.base + 0x04) 4 v :: rest) :
    step s = .next { s with
      ctrl := s.ctrl.write v
      inputs := rest
      pend := s.pend.map (fun p => { p with delay := p.delay - 1 }) } := by
  rw [step_of_hostMoves h hi]
  simp only [inputStep, h.1, Bool.false_eq_true, if_false]
  exact access_at (by decide) (by decide) _ _

/-- Settles O39: the step is `step_ctrl_write`, and each clause is a fact about the new CTRL or an unchanged field. -/
theorem ctrlWriteRule : Obligations.CtrlWriteRule := by
  intro s v rest h hi
  refine ⟨_, step_ctrl_write h hi, ?_⟩
  rw [readReg_ctrl, readReg_ctrl s]
  refine ⟨rfl, ?strict, ?legacy, ?rfc, ?three, ?readStrip, ?readMode, ?readThree, ?readHigh,
    ?readNotThree, ?word, ?latch, rfl, rfl, rfl, rfl, rfl, ⟨rfl, rfl, rfl⟩, ⟨rfl, ⟨rfl, rfl, rfl⟩, rfl, rfl⟩,
    ⟨rfl, rfl, rfl⟩, ⟨rfl, rfl, rfl⟩, ⟨rfl, rfl⟩⟩
  case strict => exact ctrl_write_mode (m := .strict) s.ctrl
  case legacy => exact ctrl_write_mode (m := .legacy) s.ctrl
  case rfc => exact ctrl_write_mode (m := .rfc) s.ctrl
  case three => exact ctrl_write_mode_of_three s.ctrl
  case readStrip => exact ctrl_word_strip (s.ctrl.write v)
  case readMode => exact ctrl_write_word_mode s.ctrl
  case readThree => exact ctrl_write_word_mode_of_three s.ctrl
  case readHigh => exact ctrl_word_high (s.ctrl.write v)
  case readNotThree =>
    obtain ⟨hread, hne⟩ := ctrl_word_mode (s.ctrl.write v)
    exact fun h3 => hne (hread.symm.trans h3)
  case word => exact Option.map_map _ _ _
  case latch => exact Option.map_map _ _ _

/-! ### The reset state -/

theorem reset_atResetValues : AtResetValues State.reset where
  ctrl := rfl
  data := ⟨rfl, rfl⟩
  idle := rfl
  error := ⟨rfl, rfl, rfl⟩
  staging := ⟨rfl, rfl, rfl, rfl, rfl⟩
  key := ⟨rfl, rfl⟩
  hmac := ⟨rfl, rfl⟩
  digest := ⟨rfl, rfl⟩

/-- Settles O48: R44's values field by field, and the reads computed from them. -/
theorem resetStateIsAsListed : Obligations.ResetStateIsAsListed :=
  ⟨reset_atResetValues, rfl, by decide, by decide⟩

end Sys2Proof.Machine
end

section
/-! PROOFS. Family 30_encoding: which words are legal (30_encoding R85), and what the completion of an illegal one does. -/

namespace Sys2Proof

/-! ### The opcode map -/

/-- The sixteen mnemonics, in the order of the opcode table (R84). -/
def mnemonics : List Mnemonic :=
  [.NOP, .SRST, .ECLR] ++ [.KBEGIN, .KBYTE, .KWORD, .KEND] ++ [.BBEGIN, .BCHAR, .BWORD, .BEND] ++
    [.HSTART, .MBYTE, .MWORD, .MCTR, .HFINISH]

@[simp] theorem mem_mnemonics (m : Mnemonic) : m ∈ mnemonics := by cases m <;> decide

theorem opcodes_eq_map_opcode : opcodes = mnemonics.map Mnemonic.opcode := rfl

theorem mem_opcodes_iff {opc : Byte} : opc ∈ opcodes ↔ ∃ m : Mnemonic, m.opcode = opc := by
  simp [opcodes_eq_map_opcode]

@[simp] theorem mnemonicOf_opcode (m : Mnemonic) : mnemonicOf m.opcode = some m := by cases m <;> rfl

theorem opcode_of_mnemonicOf {opc : Byte} {m : Mnemonic} (h : mnemonicOf opc = some m) : m.opcode = opc := by
  unfold mnemonicOf at h
  split at h <;> cases h <;> exact BitVec.eq_of_toNat_eq (Eq.symm ‹_›)

/-- `mnemonicOf` is the opcode map read the other way (R84, R86). -/
theorem mnemonicOf_eq_some_iff {opc : Byte} {m : Mnemonic} : mnemonicOf opc = some m ↔ m.opcode = opc :=
  ⟨opcode_of_mnemonicOf, fun h => h ▸ mnemonicOf_opcode m⟩

/-- The opcodes that take IMM8 are those of KBYTE, BCHAR and MBYTE (R80, R84). -/
theorem takesImm_iff (m : Mnemonic) :
    m.takesImm = true ↔ m.opcode = 0x11#8 ∨ m.opcode = 0x21#8 ∨ m.opcode = 0x31#8 := by
  cases m <;> decide

/-! ### The decoder -/

/-- The words that decode to a command, and to which. -/
theorem decode_eq_command_iff {w : Word} {i : Instr} :
    decode w = .command i ↔ ∃ m : Mnemonic, m.opcode = opcField w ∧ rsvField w = 0 ∧
      (immField w = 0 ∨ m.takesImm = true) ∧ m.instr (immField w) = i := by
  unfold decode
  cases hm : mnemonicOf (opcField w) with
  | none =>
    have hno : ∀ m : Mnemonic, m.opcode ≠ opcField w := fun m h => by
      rw [← mnemonicOf_eq_some_iff, hm] at h; cases h
    simp [hno]
  | some m =>
    have hone : ∀ m' : Mnemonic, m'.opcode = opcField w ↔ m' = m := fun m' => by
      rw [← mnemonicOf_eq_some_iff, hm, Option.some_inj, eq_comm]
    simp only [hone, exists_eq_left]
    split_ifs with hrsv himm
    · exact iff_of_false nofun fun ⟨h0, _⟩ => hrsv h0
    · obtain ⟨htakes, hne⟩ := himm
      exact iff_of_false nofun fun ⟨_, h, _⟩ => h.elim hne (by simp [htakes])
    · have himm' : immField w = 0 ∨ m.takesImm = true := by
        cases ht : m.takesImm with
        | true => exact .inr rfl
        | false => exact .inl (not_not.1 fun hne => himm ⟨ht, hne⟩)
      rw [Decoded.command.injEq, and_iff_right (not_not.1 hrsv), and_iff_right himm']

/-- *Legal* in R85's words: one of the sixteen opcodes, RSV 0, and IMM8 0 unless the opcode is KBYTE, BCHAR or MBYTE. -/
theorem exists_command_iff (w : Word) :
    (∃ i, decode w = .command i) ↔ opcField w ∈ opcodes ∧ rsvField w = 0 ∧
      (immField w = 0 ∨ opcField w = 0x11#8 ∨ opcField w = 0x21#8 ∨ opcField w = 0x31#8) := by
  constructor
  · rintro ⟨i, h⟩
    obtain ⟨m, hopc, hrsv, himm, -⟩ := decode_eq_command_iff.1 h
    rw [takesImm_iff, hopc] at himm
    exact ⟨mem_opcodes_iff.2 ⟨m, hopc⟩, hrsv, himm⟩
  · rintro ⟨hmem, hrsv, himm⟩
    obtain ⟨m, hopc⟩ := mem_opcodes_iff.1 hmem
    rw [← hopc, ← takesImm_iff] at himm
    exact ⟨_, decode_eq_command_iff.2 ⟨m, hopc, hrsv, himm, rfl⟩⟩

end Sys2Proof

namespace Sys2Proof.Machine

/-- The completion of a word that is no command records ILLEGAL and retires it (R85, 70_reset R247). -/
theorem complete_of_not_command {p : Pending} (s : State) (h : ∀ i, decode p.word ≠ .command i) :
    complete p s = .next (retire (recordError .illegal (opcField p.word) s)) := by
  obtain ⟨t, ht⟩ := complete_is_next p s
  rcases complete_cases ht with ⟨i, _, hd, _⟩ | ⟨_, heq⟩
  · exact absurd hd (h i)
  · rw [ht, heq]

/-- RecordError leaves the key session as it is (60_exceptions R214). -/
theorem recordError_sameSession (c : ErrCode) (o : Byte) (s : State) : SameSession s (recordError c o s) := by
  simp [SameSession, SameStagedBytes, SameBits]

/-- Settles O3: legality is `exists_command_iff`; the step is the completion, whose frame is that of RecordError. -/
theorem illegalWordsRecordIllegal : Obligations.IllegalWordsRecordIllegal := by
  refine ⟨exists_command_iff, fun s p hmove hno => ?_⟩
  have hstep := (step_of_engineMoves hmove).trans (complete_of_not_command s hno)
  obtain ⟨⟨hctrl, hdata0, hdata1, -⟩, hkey, hhmac, hdigest, hworld⟩ := recordError_only .illegal (opcField p.word) s
  exact ⟨_, hstep, recordError_recorded .illegal _ s, rfl, hctrl, hdata0, hdata1, recordError_sameSession .illegal _ s,
    hkey, hhmac, hdigest, hworld⟩

end Sys2Proof.Machine
end

section
/-! PROOFS. Family 40_control: NOP, SRST and ECLR (40_control R100 to R102), and which commands touch the digest. -/

namespace Sys2Proof.Machine

/-- Settles O6: NOP's arm of `exec` answers the state it is given. -/
theorem nopHasNoEffect : Obligations.NopHasNoEffect := fun _ => rfl

/-! ### The digest -/

/-- Everything HFINISH can do (44_hmac R197): SEQUENCE with no computation, a close without a result under an error, or a
published digest. -/
theorem exec_hfinish_cases {s t : State} (h : exec .hfinish s = .next t) :
    (s.hact = false ∧ t = recordError .sequence 0x34#8 s) ∨
    (s.hact = true ∧ s.err = true ∧ t = closeHmac s) ∨
    (s.hact = true ∧ s.err = false ∧ t = publish (outerDigest s.kp s.ictx.final) (closeHmac s)) := by
  injection h with h
  subst h
  cases hact : s.hact with
  | false => exact .inl ⟨rfl, rfl⟩
  | true =>
    cases herr : s.err with
    | true => exact .inr (.inl ⟨rfl, rfl, rfl⟩)
    | false => exact .inr (.inr ⟨rfl, rfl, rfl⟩)

/-- Publication sets DVALID (10_state R32). -/
@[simp] theorem publish_dvalid (d : List Byte) (s : State) : (publish d s).dvalid = true := rfl

/-- Everything a command can do to the digest (R101, 10_state R32): only SRST and a publishing HFINISH touch it. -/
theorem exec_digest_cases {i : Instr} {s t : State} (h : exec i s = .next t) :
    SameDigest s t ∨ i = .srst ∨
    (i = .hfinish ∧ s.hact = true ∧ s.err = false ∧
      t = publish (outerDigest s.kp s.ictx.final) (closeHmac s)) := by
  rcases exec_frame h with ⟨_, _, _, hsame, _⟩ | hsrst | ⟨_, _, rfl⟩ | ⟨_, _, _, rfl⟩ | hhmac | rfl
  · exact .inl hsame
  · exact .inr (.inl hsrst)
  · exact .inl ⟨commit_dvalid s, commit_dig s⟩
  · exact .inl ⟨commit_dvalid s, commit_dig s⟩
  · obtain ⟨_, _, _, hsame, _⟩ := exec_hmac_frame h hhmac
    exact .inl hsame
  · rcases exec_hfinish_cases h with ⟨_, rfl⟩ | ⟨_, _, rfl⟩ | hpublish
    · exact .inl ⟨recordError_dvalid _ _ s, recordError_dig _ _ s⟩
    · exact .inl ⟨closeHmac_dvalid s, closeHmac_dig s⟩
    · exact .inr (.inr ⟨rfl, hpublish⟩)

/-- Only SRST clears DVALID (R101): the other commands keep it, or set it with a digest. -/
theorem eq_srst_of_dvalid_cleared {i : Instr} {s t : State} (h : exec i s = .next t) (hs : s.dvalid = true)
    (ht : t.dvalid = false) : i = .srst := by
  rcases exec_digest_cases h with ⟨hdvalid, _⟩ | hsrst | ⟨_, _, _, rfl⟩
  · simp [hdvalid, hs] at ht
  · exact hsrst
  · simp at ht

/-! ### SRST -/

/-- STATUS reads 0 once SRST has completed: it shows the fields it shows right after reset (R101, 10_state R44). -/
theorem retire_softReset_statusWord (s : State) : (retire (softReset s)).statusWord = 0 :=
  calc (retire (softReset s)).statusWord
      = State.reset.statusWord := statusWord_congr rfl rfl rfl rfl rfl rfl rfl rfl rfl rfl
    _ = 0 := by decide

/-- Settles O7: the first clause is `eq_srst_of_dvalid_cleared`, the fields are those of `softReset_spec`. -/
theorem srstResetsAllButConfiguration : Obligations.SrstResetsAllButConfiguration := by
  refine ⟨fun _ _ _ h hs ht => eq_srst_of_dvalid_cleared h hs ht, fun s => ⟨softReset s, rfl, ?_⟩⟩
  obtain ⟨hconfig, herror, hsession, ⟨hkvalid, hklen, hhact, hmcnt⟩, hdigest, hworld⟩ := softReset_spec s
  have hmlen : (softReset s).mlen = 0 := by rw [State.mlen, hmcnt]; rfl
  exact ⟨hconfig, hworld, herror, hsession, ⟨hkvalid, hklen⟩, ⟨hhact, hmcnt, hmlen⟩, hdigest,
    retire_softReset_statusWord s⟩

/-! ### ECLR -/

/-- Clearing the error record leaves the key session as it is, a FAILED one too (R102). -/
theorem clearError_sameSession (s : State) : SameSession s (clearError s) := by
  simp [SameSession, SameStagedBytes, SameBits]

/-- Clearing the error record changes nothing outside the session and the record. -/
theorem clearError_only (s : State) : OnlySessionAndError s (clearError s) := by
  simp [OnlySessionAndError, SameConfig, SameKey, SameHmac, SameDigest, SameWorld]

/-- Settles O8: ECLR is `clearError`, with its values and its frame. -/
theorem eclrClearsTheErrorRecordOnly : Obligations.EclrClearsTheErrorRecordOnly := by
  intro s
  obtain ⟨hconfig, hkey, hhmac, hdigest, hworld⟩ := clearError_only s
  exact ⟨clearError s, rfl, ⟨clearError_err s, clearError_errCode s, clearError_errOpc s⟩, hconfig,
    clearError_sameSession s, hkey, hhmac, hdigest, hworld⟩

end Sys2Proof.Machine
end

section
/-! PROOFS. Family 41_base32: the lookup table (41_base32 R120, R121), the unpacking of characters (R122, R123) and the
commands of a Base32 session (R125 to R129), with KBEGIN beside BBEGIN (42_key R147). -/

namespace Sys2Proof.Machine

/-! ### The lookup table -/

/-- `A` to `Z` (R120). -/
theorem b32Lut_of_upper {c : Byte} (h : 0x41 ≤ c.toNat ∧ c.toNat ≤ 0x5A) :
    b32Lut c = .value (BitVec.ofNat 5 (c.toNat - 0x41)) :=
  if_pos h

/-- `a` to `z` (R120). -/
theorem b32Lut_of_lower {c : Byte} (h : 0x61 ≤ c.toNat ∧ c.toNat ≤ 0x7A) :
    b32Lut c = .value (BitVec.ofNat 5 (c.toNat - 0x61)) :=
  (if_neg (by omega)).trans (if_pos h)

/-- `2` to `7` (R120). -/
theorem b32Lut_of_digit {c : Byte} (h : 0x32 ≤ c.toNat ∧ c.toNat ≤ 0x37) :
    b32Lut c = .value (BitVec.ofNat 5 (c.toNat - 0x32 + 26)) :=
  (if_neg (by omega)).trans ((if_neg (by omega)).trans (if_pos h))

/-- The codes outside the three ranges are BAD but for the SKIP row (R120). -/
theorem b32Lut_of_other {c : Byte} (hupper : ¬ (0x41#8 ≤ c ∧ c ≤ 0x5A#8)) (hlower : ¬ (0x61#8 ≤ c ∧ c ≤ 0x7A#8))
    (hdigit : ¬ (0x32#8 ≤ c ∧ c ≤ 0x37#8)) (hskip : c ∉ [0x09#8, 0x0A#8, 0x0D#8, 0x20#8, 0x3D#8]) :
    b32Lut c = .bad := by
  simp only [List.mem_cons, List.not_mem_nil, or_false, ← BitVec.toNat_inj] at hskip
  exact (if_neg hupper).trans ((if_neg hlower).trans ((if_neg hdigit).trans (if_neg hskip)))

theorem charClass_of_value {c : Byte} {v : BitVec 5} (h : b32Lut c = .value v) (strip : Bool) :
    charClass strip c = .value v := by
  simp [charClass, h]

theorem charClass_of_bad {c : Byte} (h : b32Lut c = .bad) (strip : Bool) : charClass strip c = .bad := by
  simp [charClass, h]

/-- Settles O16: each row of the table is one branch of `b32Lut`; the five SKIP codes are looked up. -/
theorem lookupTableIsTheAlphabet : Obligations.LookupTableIsTheAlphabet := by
  refine ⟨fun n hn => ?letters, fun n hn => ?digits, fun c v strip h => charClass_of_value h strip, by decide,
    fun c hupper hlower hdigit hskip => ?others⟩
  case letters =>
    have hu : (BitVec.ofNat 8 (0x41 + n)).toNat = 0x41 + n := Nat.mod_eq_of_lt (by omega)
    have hl : (BitVec.ofNat 8 (0x61 + n)).toNat = 0x61 + n := Nat.mod_eq_of_lt (by omega)
    rw [b32Lut_of_upper (by omega), b32Lut_of_lower (by omega), hu, hl, Nat.add_sub_cancel_left, Nat.add_sub_cancel_left]
    exact ⟨rfl, rfl⟩
  case digits =>
    have hd : (BitVec.ofNat 8 (0x32 + n)).toNat = 0x32 + n := Nat.mod_eq_of_lt (by omega)
    rw [b32Lut_of_digit (by omega), hd, Nat.add_sub_cancel_left, Nat.add_comm]
  case others =>
    have hbad := b32Lut_of_other hupper hlower hdigit hskip
    exact ⟨hbad, charClass_of_bad hbad⟩

/-! ### What stays the same -/

theorem sameSession_refl (s : State) : SameSession s s := ⟨rfl, ⟨rfl, rfl, rfl⟩, rfl, rfl⟩

theorem sameError_refl (s : State) : SameError s s := ⟨rfl, rfl, rfl⟩

/-! ### The bits of one character, in numbers -/

/-- The bounds of R122 on the decoder's bits. -/
def BitsBounded (s : State) : Prop := s.nbits ≤ 7 ∧ s.acc.toNat < 2 ^ s.nbits

/-- `(ACC << 5) | v` is `ACC * 32 + v` as long as ACC has at most 7 bits (R123). -/
theorem shiftIn_toNat {acc : BitVec 12} (h : acc.toNat < 2 ^ 7) (v : BitVec 5) :
    ((acc <<< 5) ||| v.setWidth 12).toNat = acc.toNat * 32 + v.toNat := by
  have hv : v.toNat < 2 ^ 5 := v.isLt
  have hacc : (acc <<< 5).toNat = acc.toNat <<< 5 := by
    rw [BitVec.toNat_shiftLeft, Nat.shiftLeft_eq]; omega
  rw [BitVec.toNat_or, hacc, BitVec.toNat_setWidth, Nat.mod_eq_of_lt (by omega), ← Nat.shiftLeft_add_eq_or_of_lt hv,
    Nat.shiftLeft_eq]

/-- The eight oldest of the bits held, as the number they form (R123). -/
theorem oldestByte_eq (x : BitVec 12) (k : Nat) : (x >>> k).setWidth 8 = BitVec.ofNat 8 (x.toNat / 2 ^ k) := by
  apply BitVec.eq_of_toNat_eq
  rw [BitVec.toNat_setWidth, BitVec.toNat_ushiftRight, Nat.shiftRight_eq_div_pow, BitVec.toNat_ofNat]

/-- The `k` newest of the bits held, as the number they form (R123). -/
theorem newestBits_toNat (x : BitVec 12) {k : Nat} (h : k ≤ 12) :
    (x &&& BitVec.ofNat 12 (2 ^ k - 1)).toNat = x.toNat % 2 ^ k := by
  have hk : 2 ^ k - 1 < 2 ^ 12 := by
    have := Nat.pow_le_pow_right (n := 2) (by decide) h
    omega
  rw [BitVec.toNat_and, BitVec.toNat_ofNat, Nat.mod_eq_of_lt hk, Nat.and_two_pow_sub_one_eq_mod]

theorem BitsBounded.acc_lt {s : State} (h : BitsBounded s) : s.acc.toNat < 2 ^ 7 :=
  h.2.trans_le (Nat.pow_le_pow_right (by decide) h.1)

/-- With less than three bits held, a character's value only lengthens the stream (R123). -/
theorem b32Value_short {s t : State} {v : BitVec 5} {o : Byte} (hs : BitsBounded s) (hn : s.nbits < 3)
    (ht : b32Value v o s = t) :
    t.acc.toNat = s.acc.toNat * 32 + v.toNat ∧ t.nbits = s.nbits + 5 ∧ t.ksph = s.ksph ∧ SameStagedBytes s t ∧
      SameError s t := by
  rcases b32Value_cases v o s with ⟨_, heq⟩ | ⟨hge, _⟩
  · rw [← ht, heq]
    exact ⟨shiftIn_toNat hs.acc_lt v, rfl, rfl, ⟨rfl, rfl, rfl⟩, ⟨rfl, rfl, rfl⟩⟩
  · omega

/-- A push after the decoder's bits were replaced: the new bits stand, and the byte is pushed as onto the old state. -/
theorem keyPush_of_bits (b o : Byte) (s : State) (acc : BitVec 12) (nbits : Nat) :
    let t := keyPush b o { s with acc := acc, nbits := nbits }
    t.acc = acc ∧ t.nbits = nbits ∧ KeyPushed b o s t := by
  obtain ⟨_, ⟨hacc, hnbits⟩, _⟩ := keyPush_frame b o { s with acc := acc, nbits := nbits }
  have hpush := keyPush_pushed b o { s with acc := acc, nbits := nbits }
  exact ⟨hacc, hnbits, hpush⟩

/-- With three bits or more held, a character's value pushes the oldest eight bits of the stream and keeps the rest
(R123). -/
theorem b32Value_long {s t : State} {v : BitVec 5} {o : Byte} (hs : BitsBounded s) (hn : 3 ≤ s.nbits)
    (ht : b32Value v o s = t) :
    t.acc.toNat = (s.acc.toNat * 32 + v.toNat) % 2 ^ (s.nbits - 3) ∧ t.nbits = s.nbits - 3 ∧
      KeyPushed (BitVec.ofNat 8 ((s.acc.toNat * 32 + v.toNat) / 2 ^ (s.nbits - 3))) o s t := by
  rcases b32Value_cases v o s with ⟨hlt, _⟩ | ⟨_, heq⟩
  · omega
  · have hk : s.nbits - 3 ≤ 12 := (Nat.sub_le _ _).trans (hs.1.trans (by decide))
    rw [oldestByte_eq, shiftIn_toNat hs.acc_lt v] at heq
    rw [← ht, heq]
    obtain ⟨hacc, hnbits, hpush⟩ := keyPush_of_bits _ o s _ _
    refine ⟨?_, hnbits, hpush⟩
    rw [hacc, newestBits_toNat _ hk, shiftIn_toNat hs.acc_lt v]

/-- `B32Char` decodes its character (R123), within the bounds of R122. -/
theorem b32Char_decoded {s : State} (hs : BitsBounded s) (strip : Bool) (c o : Byte) :
    CharDecoded strip c o s (b32Char strip c o s) := by
  unfold CharDecoded
  rcases b32Char_cases strip c o s with ⟨hc, ht⟩ | ⟨hc, ht⟩ | ⟨v, hc, ht⟩ <;> rw [hc, ht]
  · exact ⟨fun _ => ⟨sameSession_refl s, sameError_refl s⟩, nofun, nofun, nofun⟩
  · refine ⟨nofun, fun _ => ⟨errorRecorded_of_eq rfl rfl rfl, rfl, ?_⟩, nofun, nofun⟩
    obtain ⟨_, hbytes, hbits⟩ := recordError_sameSession .invalidChar o s
    exact ⟨hbytes, hbits⟩
  · refine ⟨nofun, nofun, fun w hw hn => ?_, fun w hw hn => ?_⟩ <;> cases hw
    · exact b32Value_short hs hn rfl
    · exact b32Value_long hs hn rfl

/-- Bits that stay the same stay within R122. -/
theorem BitsBounded.of_sameBits {s t : State} (hs : BitsBounded s) (h : SameBits s t) : BitsBounded t := by
  obtain ⟨hacc, hnbits⟩ := h
  unfold BitsBounded
  rw [hacc, hnbits]
  exact hs

/-- Decoding a character keeps the bounds of R122. -/
theorem BitsBounded.of_charDecoded {strip : Bool} {c o : Byte} {s t : State} (hs : BitsBounded s)
    (h : CharDecoded strip c o s t) : BitsBounded t := by
  obtain ⟨hskip, hbad, hshort, hlong⟩ := h
  cases hc : charClass strip c with
  | skip =>
    obtain ⟨⟨_, _, hbits⟩, _⟩ := hskip hc
    exact hs.of_sameBits hbits
  | bad =>
    obtain ⟨_, _, _, hbits⟩ := hbad hc
    exact hs.of_sameBits hbits
  | value v =>
    rcases Nat.lt_or_ge s.nbits 3 with hn | hn
    · obtain ⟨hacc, hnbits, _⟩ := hshort v hc hn
      obtain ⟨_, hlt⟩ := hs
      have hv := v.isLt
      refine ⟨by omega, ?_⟩
      rw [hacc, hnbits, Nat.pow_add]
      omega
    · obtain ⟨hacc, hnbits, _⟩ := hlong v hc hn
      obtain ⟨hle, _⟩ := hs
      refine ⟨by omega, ?_⟩
      rw [hacc, hnbits]
      exact Nat.mod_lt _ (Nat.two_pow_pos _)

/-! ### One character of a word -/

/-- One round of BWORD's loop (R127): nothing once the session has failed, nothing for the filler 0x00. -/
def b32WordChar (strip : Bool) (c o : Byte) (s : State) : State :=
  if s.ksph = .failed ∨ c = 0x00#8 then s else b32Char strip c o s

/-- A failed session examines no further characters. -/
theorem b32Chars_of_failed {s : State} (h : s.ksph = .failed) (strip : Bool) (o : Byte) (cs : List Byte) :
    b32Chars strip o cs s = s := by
  cases cs with
  | nil => rfl
  | cons c cs => exact if_pos h

/-- BWORD's loop is its rounds, one after the other. -/
theorem b32Chars_cons (strip : Bool) (o c : Byte) (cs : List Byte) (s : State) :
    b32Chars strip o (c :: cs) s = b32Chars strip o cs (b32WordChar strip c o s) := by
  by_cases hf : s.ksph = .failed
  · rw [b32WordChar, if_pos (.inl hf), b32Chars_of_failed hf, b32Chars_of_failed hf]
  · by_cases hc : c = 0x00#8
    · rw [b32Chars, if_neg hf, if_pos hc, b32WordChar, if_pos (.inr hc)]
    · rw [b32Chars, if_neg hf, if_neg hc, b32WordChar, if_neg (not_or.2 ⟨hf, hc⟩)]

/-- A round of BWORD's loop decodes its character (R127), within the bounds of R122. -/
theorem b32WordChar_decoded {s : State} (hs : BitsBounded s) (strip : Bool) (c : Byte) :
    WordCharDecoded strip c s (b32WordChar strip c 0x22#8 s) := by
  refine ⟨fun h => ?_, fun hf hc => ?_⟩
  · rw [b32WordChar, if_pos h]
    exact ⟨sameSession_refl s, sameError_refl s⟩
  · rw [b32WordChar, if_neg (not_or.2 ⟨hf, hc⟩)]
    exact b32Char_decoded hs strip c 0x22#8

/-- A round of BWORD's loop keeps the bounds of R122. -/
theorem BitsBounded.after_wordChar {s : State} (hs : BitsBounded s) (strip : Bool) (c o : Byte) :
    BitsBounded (b32WordChar strip c o s) := by
  unfold b32WordChar
  split
  · exact hs
  · exact hs.of_charDecoded (b32Char_decoded hs strip c o)

/-! ### What the commands of a session can do -/

/-- A session command's three ways: the session has failed, it is not one of the phase `ph`, or it is. -/
theorem session_cases {ph : Phase} {s failed other same t : State}
    (h : (if s.ksph = .failed then failed else if s.ksph ≠ ph then other else same) = t) :
    (s.ksph = .failed ∧ t = failed) ∨ (s.ksph ≠ .failed ∧ s.ksph ≠ ph ∧ t = other) ∨ (s.ksph = ph ∧ t = same) := by
  split_ifs at h with hf hp
  · exact .inl ⟨hf, h.symm⟩
  · exact .inr (.inl ⟨hf, hp, h.symm⟩)
  · exact .inr (.inr ⟨not_not.1 hp, h.symm⟩)

/-- Everything BCHAR can do (R126). -/
theorem exec_bchar_cases {c : Byte} {s t : State} (h : exec (.bchar c) s = .next t) :
    (s.ksph = .failed ∧ t = s) ∨
    (s.ksph ≠ .failed ∧ s.ksph ≠ .b32 ∧ t = recordError .sequence 0x21#8 s) ∨
    (s.ksph = .b32 ∧ t = b32Char s.latched.ctrl.strip c 0x21#8 s) := by
  injection h with h
  exact session_cases h

/-- Everything BWORD can do (R127). -/
theorem exec_bword_cases {s t : State} (h : exec .bword s = .next t) :
    (s.ksph = .failed ∧ t = s) ∨
    (s.ksph ≠ .failed ∧ s.ksph ≠ .b32 ∧ t = recordError .sequence 0x22#8 s) ∨
    (s.ksph = .b32 ∧ t = b32Chars s.latched.ctrl.strip 0x22#8 s.data0Bytes s) := by
  injection h with h
  exact session_cases h

/-- Everything BEND can do (R129). -/
theorem exec_bend_cases {s t : State} (h : exec .bend s = .next t) :
    (s.ksph = .failed ∧ t = endSession s) ∨
    (s.ksph ≠ .failed ∧ s.ksph ≠ .b32 ∧ t = recordError .sequence 0x23#8 s) ∨
    (s.ksph = .b32 ∧ lenOk s.latched.ctrl.mode s.nbits = false ∧ t = endSession (recordError .fractional 0x23#8 s)) ∨
    (s.ksph = .b32 ∧ lenOk s.latched.ctrl.mode s.nbits = true ∧ s.kcnt = 0 ∧
      t = endSession (recordError .empty 0x23#8 s)) ∨
    (s.ksph = .b32 ∧ lenOk s.latched.ctrl.mode s.nbits = true ∧ s.kcnt ≠ 0 ∧ t = commit s) := by
  injection h with h
  rcases session_cases h with hfailed | hother | ⟨hb32, ht⟩
  · exact .inl hfailed
  · exact .inr (.inl hother)
  · split_ifs at ht with hlen hk
    · exact .inr (.inr (.inl ⟨hb32, hlen, ht⟩))
    · exact .inr (.inr (.inr (.inl ⟨hb32, Bool.of_not_eq_false hlen, hk, ht⟩)))
    · exact .inr (.inr (.inr (.inr ⟨hb32, Bool.of_not_eq_false hlen, hk, ht⟩)))

/-- What a command does that takes characters in a Base32 session and there answers `u`: nothing in a failed session,
SEQUENCE with no Base32 session open (R126, R127). -/
theorem characterCommand_spec {o : Byte} {s t u : State}
    (h : (s.ksph = .failed ∧ t = s) ∨ (s.ksph ≠ .failed ∧ s.ksph ≠ .b32 ∧ t = recordError .sequence o s) ∨
      (s.ksph = .b32 ∧ t = u))
    (hu : OnlySessionAndError s u) :
    OnlySessionAndError s t ∧
    (s.ksph = .failed → SameSession s t ∧ SameError s t) ∧
    (s.ksph = .idle ∨ s.ksph = .raw → ErrorRecorded .sequence o s t ∧ SameSession s t) ∧
    (s.ksph = .b32 → t = u) := by
  rcases h with ⟨hph, rfl⟩ | ⟨hf, hb, rfl⟩ | ⟨hph, rfl⟩
  · exact ⟨onlySessionAndError_refl t, fun _ => ⟨sameSession_refl t, sameError_refl t⟩, by simp [hph], by simp [hph]⟩
  · exact ⟨recordError_only .sequence o s, fun h => absurd h hf,
      fun _ => ⟨recordError_recorded .sequence o s, recordError_sameSession .sequence o s⟩, fun h => absurd h hb⟩
  · exact ⟨hu, by simp [hph], by simp [hph], fun _ => rfl⟩

/-- Settles O13: in a Base32 session BCHAR is `b32Char` under the latched STRIP, which decodes its character. -/
theorem bcharDecodesItsCharacter : Obligations.BcharDecodesItsCharacter := by
  intro c s p hp hnbits hacc
  obtain ⟨t, ht⟩ := exec_is_next (.bchar c) s
  obtain ⟨honly, hfailed, hsequence, hb32⟩ := characterCommand_spec (exec_bchar_cases ht) (b32Char_only _ c 0x21#8 s)
  refine ⟨t, ht, honly, hfailed, hsequence, fun hph => ?_⟩
  rw [hb32 hph, latched_of_pend hp]
  exact b32Char_decoded ⟨hnbits, hacc⟩ p.latch.ctrl.strip c 0x21#8

/-- Settles O14: in a Base32 session BWORD is four rounds of its loop, each of which decodes its character and keeps the
bounds that the next one needs. -/
theorem bwordDecodesFourCharacters : Obligations.BwordDecodesFourCharacters := by
  intro s p hp hnbits hacc
  obtain ⟨t, ht⟩ := exec_is_next .bword s
  obtain ⟨honly, hfailed, hsequence, hb32⟩ :=
    characterCommand_spec (exec_bword_cases ht) (b32Chars_only _ 0x22#8 s.data0Bytes s)
  refine ⟨t, ht, honly, hfailed, hsequence, fun hph => ?_⟩
  rw [hb32 hph, State.data0Bytes, latched_of_pend hp, be32Bytes]
  simp only [b32Chars_cons]
  have h0 : BitsBounded s := ⟨hnbits, hacc⟩
  have h1 := h0.after_wordChar p.latch.ctrl.strip (p.latch.data0.extractLsb' 24 8) 0x22#8
  have h2 := h1.after_wordChar p.latch.ctrl.strip (p.latch.data0.extractLsb' 16 8) 0x22#8
  have h3 := h2.after_wordChar p.latch.ctrl.strip (p.latch.data0.extractLsb' 8 8) 0x22#8
  exact ⟨_, _, _, b32WordChar_decoded h0 _ _, b32WordChar_decoded h1 _ _, b32WordChar_decoded h2 _ _,
    b32WordChar_decoded h3 _ _⟩

/-! ### The end of a session -/

/-- The counts of leftover bits that break the length rule (R128). -/
theorem lenOk_eq_false_iff {m : B32Mode} {n : Nat} :
    lenOk m n = false ↔ (m = .strict ∧ n ≠ 0) ∨ (m = .legacy ∧ 4 ≤ n) := by
  cases m <;> simp [lenOk]

/-- The counts of leftover bits that the length rule admits (R128). -/
theorem lenOk_eq_true_iff {m : B32Mode} {n : Nat} :
    lenOk m n = true ↔ (m = .strict ∧ n = 0) ∨ (m = .legacy ∧ n < 4) ∨ m = .rfc := by
  cases m <;> simp [lenOk]

theorem endSession_sessionClosed (s : State) : SessionClosed (endSession s) := ⟨rfl, rfl, rfl, rfl, rfl⟩

/-- A session that ends with an error: the error is recorded, the session closed, and nothing else touched (R129). -/
theorem endSession_recordError_spec (code : ErrCode) (o : Byte) (s : State) :
    let t := endSession (recordError code o s)
    ErrorRecorded code o s t ∧ SessionClosed t ∧ OnlySessionAndError s t :=
  ⟨errorRecorded_of_eq rfl rfl rfl, endSession_sessionClosed _,
    onlySessionAndError_trans (recordError_only code o s) (endSession_only _)⟩

/-- Settles O15: one case of `exec_bend_cases` for each clause, the length rule read by R128's table. -/
theorem bendAppliesTheLengthRule : Obligations.BendAppliesTheLengthRule := by
  intro s p hp
  obtain ⟨t, ht⟩ := exec_is_next .bend s
  refine ⟨t, ht, ?_⟩
  rw [← lenOk_eq_false_iff, ← lenOk_eq_true_iff, ← latched_of_pend hp]
  rcases exec_bend_cases ht with ⟨hph, rfl⟩ | ⟨hf, hb, rfl⟩ | ⟨hph, hlen, rfl⟩ | ⟨hph, hlen, hk, rfl⟩ |
    ⟨hph, hlen, hk, rfl⟩
  · refine ⟨fun _ => ⟨endSession_sessionClosed s, ⟨rfl, rfl, rfl⟩, endSession_only s⟩, ?_⟩
    simp [hph]
  · exact ⟨fun h => absurd h hf, fun _ => ⟨recordError_recorded .sequence 0x23#8 s,
      recordError_sameSession .sequence 0x23#8 s, recordError_only .sequence 0x23#8 s⟩, fun h => absurd h hb,
      fun h => absurd h hb⟩
  · have hspec := endSession_recordError_spec .fractional 0x23#8 s
    exact ⟨by simp [hph], by simp [hph], fun _ _ => hspec, by simp [hlen]⟩
  · have hspec := endSession_recordError_spec .empty 0x23#8 s
    exact ⟨by simp [hph], by simp [hph], by simp [hlen], fun _ _ => ⟨fun _ => hspec, fun h => absurd hk h⟩⟩
  · have hspec := commit_committed s
    exact ⟨by simp [hph], by simp [hph], by simp [hlen], fun _ _ => ⟨fun h => absurd h hk, fun _ => hspec⟩⟩

/-! ### The beginning of a session -/

/-- A new session of either kind is empty, and nothing else is touched (R125, R147). -/
theorem beginSession_spec (ph : Phase) (s : State) :
    let t := { clearStaging s with ksph := ph }
    t.ksph = ph ∧ t.kraw = [] ∧ t.kcnt = 0 ∧ t.acc = 0 ∧ t.nbits = 0 ∧ t.klong = false ∧ SameError s t ∧
      OnlySessionAndError s t :=
  ⟨rfl, rfl, rfl, rfl, rfl, rfl, ⟨rfl, rfl, rfl⟩, onlySessionAndError_refl s⟩

/-- Settles O9: both commands clear the staging state and differ in the phase they set only. -/
theorem beginOpensAnEmptySession : Obligations.BeginOpensAnEmptySession :=
  fun s => ⟨⟨_, rfl, beginSession_spec .raw s⟩, ⟨_, rfl, beginSession_spec .b32 s⟩⟩

end Sys2Proof.Machine
end

section
/-! PROOFS. Family 42_key: the commands of a raw session (42_key R148 to R150), on KeyPush (R141) and Commit (R146). -/

namespace Sys2Proof.Machine

/-! ### Pushing several bytes -/

theorem sameBits_refl (s : State) : SameBits s s := ⟨rfl, rfl⟩

theorem sameBits_trans {a b c : State} (h : SameBits a b) (k : SameBits b c) : SameBits a c :=
  ⟨k.1.trans h.1, k.2.trans h.2⟩

theorem sameError_trans {a b c : State} (h : SameError a b) (k : SameError b c) : SameError a c := by
  obtain ⟨herr, hcode, hopc⟩ := h
  obtain ⟨kerr, kcode, kopc⟩ := k
  exact ⟨kerr.trans herr, kcode.trans hcode, kopc.trans hopc⟩

/-- A push takes its byte past the decoder, whose bits stay (R141). -/
theorem keyPush_sameBits (b o : Byte) (s : State) : SameBits s (keyPush b o s) := by
  obtain ⟨_, hbits, _⟩ := keyPush_frame b o s
  exact hbits

theorem keyPushAll_sameBits (bs : List Byte) (o : Byte) (s : State) : SameBits s (keyPushAll bs o s) := by
  induction bs generalizing s with
  | nil => exact sameBits_refl s
  | cons b bs ih => exact sameBits_trans (keyPush_sameBits b o s) (ih _)

/-- Bytes that fit within the limit are all counted, and no error ends the session (R141, R142). -/
theorem keyPushAll_within_limit (bs : List Byte) (o : Byte) (s : State)
    (h : s.kcnt + bs.length ≤ Config.maxKeyBytes) :
    let t := keyPushAll bs o s
    SameError s t ∧ t.ksph = s.ksph ∧ t.kcnt = s.kcnt + bs.length := by
  induction bs generalizing s with
  | nil => exact ⟨sameError_refl s, rfl, rfl⟩
  | cons b bs ih =>
    rw [List.length_cons] at h
    obtain ⟨_, hpush⟩ := keyPush_pushed b o s
    obtain ⟨herror, hksph, hkcnt, _⟩ := hpush (by omega)
    obtain ⟨herror', hksph', hkcnt'⟩ := ih (keyPush b o s) (by omega)
    exact ⟨sameError_trans herror herror', hksph'.trans hksph, by rw [keyPushAll_cons, List.length_cons]; omega⟩

/-- A word pushed is its four bytes pushed, most significant first (R149). -/
theorem keyPushAll_be32Bytes_pushed (w : Word) (o : Byte) (s : State) :
    ∃ t1 t2 t3, KeyPushed (w.extractLsb' 24 8) o s t1 ∧ KeyPushed (w.extractLsb' 16 8) o t1 t2 ∧
      KeyPushed (w.extractLsb' 8 8) o t2 t3 ∧ KeyPushed (w.extractLsb' 0 8) o t3 (keyPushAll (be32Bytes w) o s) :=
  ⟨_, _, _, keyPush_pushed _ o _, keyPush_pushed _ o _, keyPush_pushed _ o _, keyPush_pushed _ o _⟩

/-! ### What the commands of a raw session can do -/

/-- Everything KBYTE can do (R148). -/
theorem exec_kbyte_cases {b : Byte} {s t : State} (h : exec (.kbyte b) s = .next t) :
    (s.ksph = .failed ∧ t = s) ∨
    (s.ksph ≠ .failed ∧ s.ksph ≠ .raw ∧ t = recordError .sequence 0x11#8 s) ∨
    (s.ksph = .raw ∧ t = keyPush b 0x11#8 s) := by
  injection h with h
  exact session_cases h

/-- Everything KWORD can do (R149). -/
theorem exec_kword_cases {s t : State} (h : exec .kword s = .next t) :
    (s.ksph = .failed ∧ t = s) ∨
    (s.ksph ≠ .failed ∧ s.ksph ≠ .raw ∧ t = recordError .sequence 0x12#8 s) ∨
    (s.ksph = .raw ∧ Config.maxKeyBytes < s.kcnt + 4 ∧ t = { recordError .length 0x12#8 s with ksph := .failed }) ∨
    (s.ksph = .raw ∧ s.kcnt + 4 ≤ Config.maxKeyBytes ∧ t = keyPushAll s.data0Bytes 0x12#8 s) := by
  injection h with h
  rcases session_cases h with hfailed | hother | ⟨hraw, ht⟩
  · exact .inl hfailed
  · exact .inr (.inl hother)
  · split_ifs at ht with hlimit
    · exact .inr (.inr (.inl ⟨hraw, hlimit, ht⟩))
    · exact .inr (.inr (.inr ⟨hraw, not_lt.1 hlimit, ht⟩))

/-- Everything KEND can do (R150). -/
theorem exec_kend_cases {s t : State} (h : exec .kend s = .next t) :
    (s.ksph = .failed ∧ t = endSession s) ∨
    (s.ksph ≠ .failed ∧ s.ksph ≠ .raw ∧ t = recordError .sequence 0x13#8 s) ∨
    (s.ksph = .raw ∧ t = commit s) := by
  injection h with h
  exact session_cases h

/-- What RecordError does as a command's only effect: the record, the session kept, nothing else touched (R214). -/
theorem recordError_spec (code : ErrCode) (o : Byte) (s : State) :
    let t := recordError code o s
    ErrorRecorded code o s t ∧ SameSession s t ∧ OnlySessionAndError s t :=
  ⟨recordError_recorded code o s, recordError_sameSession code o s, recordError_only code o s⟩

/-- An error that also fails the session: the record, and no staged byte or bit touched (R141, R149). -/
theorem failSession_spec (code : ErrCode) (o : Byte) (s : State) :
    let t := { recordError code o s with ksph := .failed }
    ErrorRecorded code o s t ∧ t.ksph = .failed ∧ SameStagedBytes s t ∧ SameBits s t ∧ OnlySessionAndError s t := by
  obtain ⟨herror, ⟨_, hbytes, hbits⟩, honly⟩ := recordError_spec code o s
  exact ⟨herror, rfl, hbytes, hbits, honly⟩

/-- Settles O10: one case of `exec_kbyte_cases` for each clause; in a raw session it is `keyPush`. -/
theorem kbyteAppendsItsByte : Obligations.KbyteAppendsItsByte := by
  intro b s
  obtain ⟨t, ht⟩ := exec_is_next (.kbyte b) s
  refine ⟨t, ht, ?_⟩
  rcases exec_kbyte_cases ht with ⟨hph, rfl⟩ | ⟨hf, hr, rfl⟩ | ⟨hph, rfl⟩
  · exact ⟨onlySessionAndError_refl t, fun _ => ⟨sameSession_refl t, sameError_refl t⟩, by simp [hph], by simp [hph]⟩
  · obtain ⟨herror, hsession, honly⟩ := recordError_spec .sequence 0x11#8 s
    exact ⟨honly, fun h => absurd h hf, fun _ => ⟨herror, hsession⟩, fun h => absurd h hr⟩
  · exact ⟨keyPush_only b 0x11#8 s, by simp [hph], by simp [hph],
      fun _ => ⟨keyPush_pushed b 0x11#8 s, keyPush_sameBits b 0x11#8 s⟩⟩

/-- Settles O11: one case of `exec_kword_cases` for each clause; within the limit all four bytes are pushed. -/
theorem kwordAppendsFourBytesOrNone : Obligations.KwordAppendsFourBytesOrNone := by
  intro s p hp
  obtain ⟨t, ht⟩ := exec_is_next .kword s
  refine ⟨t, ht, ?_⟩
  rcases exec_kword_cases ht with ⟨hph, rfl⟩ | ⟨hf, hr, rfl⟩ | ⟨hph, hlimit, rfl⟩ | ⟨hph, hfits, rfl⟩
  · exact ⟨onlySessionAndError_refl t, sameBits_refl t, fun _ => ⟨sameSession_refl t, sameError_refl t⟩,
      by simp [hph], by simp [hph], by simp [hph]⟩
  · obtain ⟨herror, ⟨hksph, hbytes, hbits⟩, honly⟩ := recordError_spec .sequence 0x12#8 s
    exact ⟨honly, hbits, fun h => absurd h hf, fun _ => ⟨herror, hksph, hbytes, hbits⟩, fun h => absurd h hr,
      fun h => absurd h hr⟩
  · obtain ⟨herror, hksph, hbytes, hbits, honly⟩ := failSession_spec .length 0x12#8 s
    exact ⟨honly, hbits, by simp [hph], by simp [hph], fun _ _ => ⟨herror, hksph, hbytes⟩,
      fun _ hle => absurd hlimit (not_lt.2 hle)⟩
  · rw [State.data0Bytes, latched_of_pend hp]
    obtain ⟨herror, hksph, hkcnt⟩ := keyPushAll_within_limit (be32Bytes p.latch.data0) 0x12#8 s hfits
    have hpushed := keyPushAll_be32Bytes_pushed p.latch.data0 0x12#8 s
    exact ⟨keyPushAll_only _ 0x12#8 s, keyPushAll_sameBits _ 0x12#8 s, by simp [hph], by simp [hph],
      fun _ hlimit => absurd hlimit (not_lt.2 hfits), fun _ _ => ⟨herror, hksph.trans hph, hkcnt, hpushed⟩⟩

/-- Settles O12: one case of `exec_kend_cases` for each clause; a raw session, the empty one too, is committed. -/
theorem kendCommitsTheRawKey : Obligations.KendCommitsTheRawKey := by
  intro s
  obtain ⟨t, ht⟩ := exec_is_next .kend s
  refine ⟨t, ht, ?_⟩
  rcases exec_kend_cases ht with ⟨hph, rfl⟩ | ⟨hf, hr, rfl⟩ | ⟨hph, rfl⟩
  · exact ⟨fun _ => ⟨endSession_sessionClosed s, ⟨rfl, rfl, rfl⟩, endSession_only s⟩, by simp [hph], by simp [hph]⟩
  · have hspec := recordError_spec .sequence 0x13#8 s
    exact ⟨fun h => absurd h hf, fun _ => hspec, fun h => absurd h hr⟩
  · exact ⟨by simp [hph], by simp [hph], fun _ => commit_committed s⟩

end Sys2Proof.Machine
end

section
/-! PROOFS. Family 44_hmac: the commands of an HMAC computation (44_hmac R193 to R197), on MsgPush (R198) and the streaming
SHA-1 (43_sha1 R163, R173). -/

namespace Sys2Proof.Machine

/-! ### What RecordError and a close leave -/

/-- RecordError leaves the computation as it is (60_exceptions R214). -/
theorem recordError_sameHmac (c : ErrCode) (o : Byte) (s : State) : SameHmac s (recordError c o s) := by
  simp [SameHmac]

/-- RecordError touches nothing outside the computation and the record. -/
theorem recordError_onlyHmac (c : ErrCode) (o : Byte) (s : State) : OnlyHmacAndError s (recordError c o s) := by
  obtain ⟨hconfig, hkey, _, hdigest, hworld⟩ := recordError_only c o s
  exact ⟨hconfig, recordError_sameSession c o s, hkey, hdigest, hworld⟩

/-- Closing the computation touches nothing else (10_state R40). -/
theorem closeHmac_onlyHmac (s : State) : OnlyHmacAndError s (closeHmac s) :=
  ⟨⟨rfl, rfl, rfl, rfl⟩, sameSession_refl s, ⟨rfl, rfl, rfl⟩, ⟨rfl, rfl⟩, ⟨rfl, rfl, rfl⟩⟩

/-! ### HSTART -/

/-- Everything HSTART can do (R193); whether a computation is open makes no difference. -/
theorem exec_hstart_cases {s t : State} (h : exec .hstart s = .next t) :
    (s.kvalid = false ∧ t = recordError .sequence 0x30#8 s) ∨
    (s.kvalid = true ∧ t = { s with ictx := Sha1Ctx.init.absorbAll (innerKey s.kp), mcnt := 0, hact := true }) := by
  injection h with h
  split_ifs at h with hk
  · exact .inl ⟨hk, h.symm⟩
  · exact .inr ⟨Bool.of_not_eq_false hk, h.symm⟩

/-- Settles O24: the two cases of `exec_hstart_cases`, within the frame of the HMAC commands. -/
theorem hstartAbsorbsTheInnerKey : Obligations.HstartAbsorbsTheInnerKey := by
  intro s
  obtain ⟨t, ht⟩ := exec_is_next .hstart s
  refine ⟨t, ht, exec_hmac_frame ht (.inl rfl), ?_⟩
  rcases exec_hstart_cases ht with ⟨hk, rfl⟩ | ⟨hk, rfl⟩
  · exact ⟨fun _ => ⟨recordError_recorded .sequence 0x30#8 s, recordError_sameHmac .sequence 0x30#8 s⟩, by simp [hk]⟩
  · exact ⟨by simp [hk], fun _ => ⟨sameError_refl s, rfl, rfl, rfl, rfl⟩⟩

/-! ### MBYTE, MWORD and MCTR -/

/-- What the three message commands share (R194 to R196): SEQUENCE with no open computation, else MsgPush. -/
def offerMessage (bs : List Byte) (o : Byte) (s : State) : State :=
  if s.hact = false then recordError .sequence o s else msgPush bs o s

theorem exec_mbyte (b : Byte) (s : State) : exec (.mbyte b) s = .next (offerMessage [b] 0x31#8 s) := rfl

theorem exec_mword (s : State) : exec .mword s = .next (offerMessage s.data0Bytes 0x32#8 s) := rfl

theorem exec_mctr (s : State) : exec .mctr s = .next (offerMessage s.counterBytes 0x33#8 s) := rfl

/-- Everything a message command can do (R194 to R196, R198). -/
theorem offerMessage_cases (bs : List Byte) (o : Byte) (s : State) :
    (s.hact = false ∧ offerMessage bs o s = recordError .sequence o s) ∨
    (s.hact = true ∧ Config.maxMsgBytes < s.mcnt + bs.length ∧
      offerMessage bs o s = closeHmac (recordError .length o s)) ∨
    (s.hact = true ∧ s.mcnt + bs.length ≤ Config.maxMsgBytes ∧
      offerMessage bs o s = { s with ictx := s.ictx.absorbAll bs, mcnt := s.mcnt + bs.length }) := by
  unfold offerMessage
  split_ifs with hact
  · exact .inl ⟨hact, rfl⟩
  · have hopen := Bool.of_not_eq_false hact
    rcases msgPush_cases bs o s with ⟨hlimit, heq⟩ | ⟨hfits, heq⟩
    · exact .inr (.inl ⟨hopen, hlimit, heq⟩)
    · exact .inr (.inr ⟨hopen, hfits, heq⟩)

/-- A message command absorbs all its bytes or none (R198). -/
theorem offerMessage_absorbed (bs : List Byte) (o : Byte) (s : State) : MessageAbsorbed bs o s (offerMessage bs o s) := by
  rcases offerMessage_cases bs o s with ⟨hact, heq⟩ | ⟨hact, hlimit, heq⟩ | ⟨hact, hfits, heq⟩ <;> rw [heq]
  · exact ⟨fun _ => ⟨recordError_recorded .sequence o s, recordError_sameHmac .sequence o s⟩, by simp [hact],
      by simp [hact]⟩
  · exact ⟨by simp [hact], fun _ _ => ⟨errorRecorded_of_eq rfl rfl rfl, rfl, recordError_mcnt .length o s⟩,
      fun _ hle => absurd hlimit (not_lt.2 hle)⟩
  · exact ⟨by simp [hact], fun _ hlt => absurd hlt (not_lt.2 hfits), fun _ _ => ⟨sameError_refl s, hact, rfl, rfl⟩⟩

/-- Settles O25: each command is `offerMessage` of its operand, which for a pending MWORD or MCTR is the latched one. -/
theorem messageCommandsAbsorbTheirBytes : Obligations.MessageCommandsAbsorbTheirBytes := by
  refine ⟨fun b s => ?mbyte, fun s p hp => ?mword, fun s p hp => ?mctr⟩
  case mbyte =>
    exact ⟨_, exec_mbyte b s, exec_hmac_frame (exec_mbyte b s) (.inr (.inl ⟨b, rfl⟩)), offerMessage_absorbed _ _ s⟩
  case mword =>
    refine ⟨_, exec_mword s, exec_hmac_frame (exec_mword s) (.inr (.inr (.inl rfl))), ?_⟩
    rw [State.data0Bytes, latched_of_pend hp]
    exact offerMessage_absorbed (be32Bytes p.latch.data0) 0x32#8 s
  case mctr =>
    refine ⟨_, exec_mctr s, exec_hmac_frame (exec_mctr s) (.inr (.inr (.inr rfl))), ?_⟩
    rw [State.counterBytes, latched_of_pend hp]
    exact offerMessage_absorbed (be32Bytes p.latch.data1 ++ be32Bytes p.latch.data0) 0x33#8 s

/-! ### HFINISH -/

/-- The outer hash absorbs K' XOR 0x5C and the inner digest in turn, which is to hash the two together (R192, R197). -/
theorem outerDigest_eq_sha1 (kp inner : List Byte) : outerDigest kp inner = sha1 (outerKey kp ++ inner) := by
  rw [outerDigest, sha1, absorbAll_append]

/-- The digest registers, read big-endian, are the published digest (10_state R32). -/
theorem publish_outerDigest_bytes (kp inner : List Byte) (s : State) :
    (publish (outerDigest kp inner) s).dig.bytes = sha1 (outerKey kp ++ inner) :=
  calc (Hash.ofBytes (outerDigest kp inner)).bytes
      = outerDigest kp inner := congrArg Hash.bytes (hash_ofBytes_bytes _)
    _ = sha1 (outerKey kp ++ inner) := outerDigest_eq_sha1 kp inner

/-- What HFINISH leaves as it was, and that no computation is open after it (R197). -/
theorem exec_hfinish_frame {s t : State} (h : exec .hfinish s = .next t) :
    SameConfig s t ∧ SameSession s t ∧ SameKey s t ∧ SameWorld s t ∧ t.mcnt = s.mcnt ∧ t.hact = false := by
  obtain ⟨cconfig, csession, ckey, _, cworld⟩ := closeHmac_onlyHmac s
  rcases exec_hfinish_cases h with ⟨hact, rfl⟩ | ⟨_, _, rfl⟩ | ⟨_, _, rfl⟩
  · obtain ⟨hconfig, hsession, hkey, _, hworld⟩ := recordError_onlyHmac .sequence 0x34#8 s
    obtain ⟨hhact, _, hmcnt⟩ := recordError_sameHmac .sequence 0x34#8 s
    exact ⟨hconfig, hsession, hkey, hworld, hmcnt, hhact.trans hact⟩
  · exact ⟨cconfig, csession, ckey, cworld, closeHmac_mcnt s, closeHmac_hact s⟩
  · exact ⟨cconfig, csession, ckey, cworld, closeHmac_mcnt s, closeHmac_hact s⟩

/-- Settles O27: the frame is `exec_hfinish_frame`, and each case of `exec_hfinish_cases` is one clause. -/
theorem hfinishPublishesTheOuterHash : Obligations.HfinishPublishesTheOuterHash := by
  intro s
  obtain ⟨t, ht⟩ := exec_is_next .hfinish s
  obtain ⟨hconfig, hsession, hkey, hworld, hmcnt, hclosed⟩ := exec_hfinish_frame ht
  refine ⟨t, ht, hconfig, hsession, hkey, hworld, hmcnt, hclosed, ?_⟩
  rcases exec_hfinish_cases ht with ⟨hact, rfl⟩ | ⟨hact, herr, rfl⟩ | ⟨hact, herr, rfl⟩
  · obtain ⟨_, _, _, hdigest, _⟩ := recordError_onlyHmac .sequence 0x34#8 s
    exact ⟨fun _ => ⟨recordError_recorded .sequence 0x34#8 s, recordError_sameHmac .sequence 0x34#8 s, hdigest⟩,
      by simp [hact]⟩
  · exact ⟨by simp [hact], fun _ => ⟨sameError_refl s, fun _ => ⟨rfl, rfl⟩, by simp [herr]⟩⟩
  · exact ⟨by simp [hact], fun _ => ⟨sameError_refl s, by simp [herr],
      fun _ => ⟨publish_dvalid _ _, publish_outerDigest_bytes s.kp s.ictx.final (closeHmac s)⟩⟩⟩

end Sys2Proof.Machine
end

section
/-! PROOFS. Family 60_exceptions: the first error is kept (60_exceptions R214). An operation that does not look at the record
of an error (`Laws/Related`: it commutes with `withError true`) leaves it as it was, so only ECLR, SRST and reset change it. -/

namespace Sys2Proof.Machine

/-! ### The shared operations, ERR being 1 -/

/-- What commutes with a change of the error record to the one the state has leaves the record as it was. -/
theorem sameError_of_withError (f : State → State) {s : State}
    (hf : f (s.withError true s.errCode s.errOpc) = (f s).withError true s.errCode s.errOpc) (hs : s.err = true) :
    SameError s (f s) := by
  have hsame : s.withError true s.errCode s.errOpc = s := by cases s; cases hs; rfl
  rw [hsame] at hf
  rw [hf]
  exact ⟨hs.symm, rfl, rfl⟩

theorem keyPush_sameError (b o : Byte) {s : State} (hs : s.err = true) : SameError s (keyPush b o s) :=
  sameError_of_withError _ (keyPush_withError b o _ _ s) hs

theorem keyPushAll_sameError (bs : List Byte) (o : Byte) {s : State} (hs : s.err = true) :
    SameError s (keyPushAll bs o s) :=
  sameError_of_withError _ (keyPushAll_withError bs o _ _ s) hs

theorem b32Char_sameError (strip : Bool) (c o : Byte) {s : State} (hs : s.err = true) :
    SameError s (b32Char strip c o s) :=
  sameError_of_withError _ (b32Char_withError strip c o _ _ s) hs

theorem b32Chars_sameError (strip : Bool) (o : Byte) (cs : List Byte) {s : State} (hs : s.err = true) :
    SameError s (b32Chars strip o cs s) :=
  sameError_of_withError _ (b32Chars_withError strip o cs _ _ s) hs

theorem offerMessage_sameError (bs : List Byte) (o : Byte) {s : State} (hs : s.err = true) :
    SameError s (offerMessage bs o s) := by
  unfold offerMessage
  split
  · exact recordError_sticky .sequence o hs
  · exact sameError_of_withError _ (msgPush_withError bs o _ _ s) hs

/-! ### The commands, ERR being 1 -/

/-- ERR being 1, every command but ECLR and SRST leaves the error record as it was (R214). -/
theorem exec_sameError {i : Instr} {s t : State} (h : exec i s = .next t) (hs : s.err = true) :
    SameError s t ∨ i = .eclr ∨ i = .srst := by
  cases i with
  | eclr => exact .inr (.inl rfl)
  | srst => exact .inr (.inr rfl)
  | nop | kbegin | bbegin => cases h; exact .inl ⟨rfl, rfl, rfl⟩
  | kbyte b =>
    rcases exec_kbyte_cases h with ⟨_, rfl⟩ | ⟨_, _, rfl⟩ | ⟨_, rfl⟩
    · exact .inl (sameError_refl _)
    · exact .inl (recordError_sticky .sequence 0x11#8 hs)
    · exact .inl (keyPush_sameError b 0x11#8 hs)
  | kword =>
    rcases exec_kword_cases h with ⟨_, rfl⟩ | ⟨_, _, rfl⟩ | ⟨_, _, rfl⟩ | ⟨_, _, rfl⟩
    · exact .inl (sameError_refl _)
    · exact .inl (recordError_sticky .sequence 0x12#8 hs)
    · exact .inl (recordError_sticky .length 0x12#8 hs)
    · exact .inl (keyPushAll_sameError s.data0Bytes 0x12#8 hs)
  | kend =>
    rcases exec_kend_cases h with ⟨_, rfl⟩ | ⟨_, _, rfl⟩ | ⟨_, rfl⟩
    · exact .inl ⟨rfl, rfl, rfl⟩
    · exact .inl (recordError_sticky .sequence 0x13#8 hs)
    · exact .inl ⟨rfl, rfl, rfl⟩
  | bchar c =>
    rcases exec_bchar_cases h with ⟨_, rfl⟩ | ⟨_, _, rfl⟩ | ⟨_, rfl⟩
    · exact .inl (sameError_refl _)
    · exact .inl (recordError_sticky .sequence 0x21#8 hs)
    · exact .inl (b32Char_sameError _ c 0x21#8 hs)
  | bword =>
    rcases exec_bword_cases h with ⟨_, rfl⟩ | ⟨_, _, rfl⟩ | ⟨_, rfl⟩
    · exact .inl (sameError_refl _)
    · exact .inl (recordError_sticky .sequence 0x22#8 hs)
    · exact .inl (b32Chars_sameError _ 0x22#8 s.data0Bytes hs)
  | bend =>
    rcases exec_bend_cases h with ⟨_, rfl⟩ | ⟨_, _, rfl⟩ | ⟨_, _, rfl⟩ | ⟨_, _, _, rfl⟩ | ⟨_, _, _, rfl⟩
    · exact .inl ⟨rfl, rfl, rfl⟩
    · exact .inl (recordError_sticky .sequence 0x23#8 hs)
    · exact .inl (recordError_sticky .fractional 0x23#8 hs)
    · exact .inl (recordError_sticky .empty 0x23#8 hs)
    · exact .inl ⟨rfl, rfl, rfl⟩
  | hstart =>
    rcases exec_hstart_cases h with ⟨_, rfl⟩ | ⟨_, rfl⟩
    · exact .inl (recordError_sticky .sequence 0x30#8 hs)
    · exact .inl ⟨rfl, rfl, rfl⟩
  | mbyte b => cases h; exact .inl (offerMessage_sameError [b] 0x31#8 hs)
  | mword => cases h; exact .inl (offerMessage_sameError s.data0Bytes 0x32#8 hs)
  | mctr => cases h; exact .inl (offerMessage_sameError s.counterBytes 0x33#8 hs)
  | hfinish =>
    rcases exec_hfinish_cases h with ⟨_, rfl⟩ | ⟨_, _, rfl⟩ | ⟨_, _, rfl⟩
    · exact .inl (recordError_sticky .sequence 0x34#8 hs)
    · exact .inl ⟨rfl, rfl, rfl⟩
    · exact .inl ⟨rfl, rfl, rfl⟩

/-- ERR being 1, every completion but those of ECLR and SRST leaves the error record as it was; ILLEGAL is not recorded
over it. -/
theorem complete_sameError {p : Pending} {s t : State} (h : complete p s = .next t) (hs : s.err = true) :
    SameError s t ∨ decode p.word = .command .eclr ∨ decode p.word = .command .srst := by
  rcases complete_cases h with ⟨i, u, hd, hu, rfl⟩ | ⟨_, rfl⟩
  · rcases exec_sameError hu hs with hsame | rfl | rfl
    · exact .inl hsame
    · exact .inr (.inl hd)
    · exact .inr (.inr hd)
  · exact .inl (recordError_sticky .illegal (opcField p.word) hs)

/-! ### The inputs, ERR being 1 -/

/-- ERR being 1, no register write changes the error record; a dropped CMD write finds it taken (R214, 70_reset R245). -/
theorem writeReg_sameError (off : Nat) (v : Word) {s : State} (hs : s.err = true) : SameError s (writeReg off v s) := by
  rcases writeReg_cases off v s with h | h | h | h | h <;> rw [h]
  case inr.inl =>
    rcases writeCmd_cases v s with ⟨_, _, h⟩ | ⟨_, h⟩ <;> rw [h]
    · exact ⟨rfl, rfl, rfl⟩
    · exact recordError_sticky .busy (opcField v) hs
  all_goals exact ⟨rfl, rfl, rfl⟩

/-- ERR being 1, only the assertion of reset changes the error record among the inputs. -/
theorem inputStep_sameError {inp : Input} {s t : State} (h : inputStep inp s = .next t) (hs : s.err = true) :
    SameError s t ∨ inp = .assertReset := by
  rcases inputStep_cases h with ⟨hreset, _⟩ | ⟨_, rfl⟩ | ⟨_, off, rfl⟩ | ⟨_, rfl⟩ | ⟨_, off, v, rfl⟩
  · exact .inr hreset
  · exact .inl ⟨rfl, rfl, rfl⟩
  · exact .inl ⟨rfl, rfl, rfl⟩
  · exact .inl ⟨rfl, rfl, rfl⟩
  · exact .inl (writeReg_sameError off v hs)

/-! ### The step -/

/-- With no command in flight, or with reset asserted, the host or the reset input is to move. -/
theorem hostMoves_or_inReset {s : State} (h : s.inReset = true ∨ s.pend = none) : HostMoves s ∨ s.inReset = true := by
  rcases Bool.eq_false_or_eq_true s.inReset with hr | hr
  · exact .inr hr
  · have hp : s.pend = none := h.resolve_left (by simp [hr])
    exact .inl ⟨hr, by simp [hp]⟩

/-- ERR being 1, a step leaves the error record as it was, or completes ECLR or SRST, or takes a reset (R214). -/
theorem step_sameError {s t : State} (h : step s = .next t) (hs : s.err = true) :
    SameError s t ∨
    (∃ p, EngineMoves p s ∧ (decode p.word = .command .eclr ∨ decode p.word = .command .srst)) ∨
    (∃ rest, (HostMoves s ∨ s.inReset = true) ∧ s.inputs = .assertReset :: rest) := by
  rcases step_cases s with ⟨_, _, heq⟩ | ⟨p, hr, hp, hdue, heq⟩ | ⟨p, inp, rest, hr, hp, hdelay, hin, heq⟩ |
    ⟨inp, rest, hidle, hin, heq⟩ <;> rw [heq] at h
  · cases h
    exact .inl (sameError_refl s)
  · rcases complete_sameError h hs with hsame | hclears
    · exact .inl hsame
    · exact .inr (.inl ⟨p, ⟨hr, hp, hdue⟩, hclears⟩)
  · rcases inputStep_sameError h hs with hsame | rfl
    · exact .inl hsame
    · have hmoves : HostMoves s := ⟨hr, fun q hq => by cases hp.symm.trans hq; exact hdelay⟩
      exact .inr (.inr ⟨rest, .inl hmoves, hin⟩)
  · rcases inputStep_sameError h hs with hsame | rfl
    · exact .inl hsame
    · exact .inr (.inr ⟨rest, hostMoves_or_inReset hidle, hin⟩)

/-- Settles O33: RecordError by its record and its frame, the step by `step_sameError`. -/
theorem theFirstErrorIsKept : Obligations.TheFirstErrorIsKept := by
  refine ⟨fun code opc s => ?record, fun s t h hs => ?step⟩
  case record =>
    obtain ⟨hconfig, hkey, hhmac, hdigest, hworld⟩ := recordError_only code opc s
    exact ⟨recordError_recorded code opc s, hconfig, recordError_sameSession code opc s, hkey, hhmac, hdigest, hworld⟩
  case step =>
    exact (step_sameError h hs).imp_left fun ⟨herr, hcode, hopc⟩ => ⟨herr.trans hs, hcode, hopc⟩

end Sys2Proof.Machine
end

section
/-! PROOFS. Family 70_reset: a write to CMD is accepted or dropped (70_reset R245). -/

namespace Sys2Proof.Machine

/-- When the host moves, a write to CMD is answered at once; a command in flight comes one step nearer to its completion. -/
theorem step_cmd_write {s : State} {w : Word} {rest : List Input} (h : HostMoves s)
    (hi : s.inputs = .write (Config.base + 0x0C) 4 w :: rest) :
    step s = .next (writeCmd w (countDown { s with inputs := rest })) := by
  rw [step_of_hostMoves h hi]
  simp only [inputStep, h.1, Bool.false_eq_true, if_false]
  exact access_at (by decide) (by decide) _ _

/-- A host step leaves the word in flight and its copies as they were (R246). -/
theorem countDown_pend_eq_some {s : State} {p : Pending} (h : s.pend = some p) :
    ∃ q, (countDown s).pend = some q ∧ q.word = p.word ∧ q.latch = p.latch :=
  ⟨{ p with delay := p.delay - 1 }, congrArg (Option.map _) h, rfl, rfl⟩

/-- Settles O41: the step is `step_cmd_write`, and each case of `writeCmd_cases` is one clause. A dropped word leaves what
RecordError does and the frame of RecordError. -/
theorem cmdWriteIsAcceptedOrDropped : Obligations.CmdWriteIsAcceptedOrDropped := by
  intro s w rest h hi
  refine ⟨_, step_cmd_write h hi, ?_⟩
  rcases writeCmd_cases w (countDown { s with inputs := rest }) with ⟨hidle, d, heq⟩ | ⟨hbusy, heq⟩ <;> rw [heq]
  · have hnone : s.pend = none := Option.map_eq_none_iff.1 hidle
    exact ⟨rfl, rfl, rfl, sameSession_refl s, ⟨rfl, rfl, rfl⟩, ⟨rfl, rfl, rfl⟩, ⟨rfl, rfl⟩, rfl, rfl, rfl,
      fun _ => ⟨sameError_refl s, _, rfl, rfl, rfl⟩, by simp [hnone]⟩
  · obtain ⟨⟨hctrl, hdata0, hdata1, hpend⟩, hkey, hhmac, hdigest, hreset, hinputs, hreads⟩ :=
      recordError_only .busy (opcField w) (countDown { s with inputs := rest })
    refine ⟨hctrl, hdata0, hdata1, recordError_sameSession .busy _ _, hkey, hhmac, hdigest, hreset, hinputs, hreads,
      fun hnone => absurd (Option.map_eq_none_iff.2 hnone) hbusy,
      fun p hp => ⟨recordError_recorded .busy _ _, ?_⟩⟩
    rw [hpend]
    exact countDown_pend_eq_some (s := { s with inputs := rest }) hp

end Sys2Proof.Machine
end

section
/-! PROOFS. Encoding: decoding after encoding gives the command back, a legal word is the encoding of its command (30_encoding
R80, R85), and the rows of the opcode table do not overlap (R84). -/

namespace Sys2Proof

/-! ### Encode, then decode -/

/-- The word of every command has the fields of format C with its mnemonic's opcode and its IMM8, and matches its row of the
opcode table. -/
theorem encodingFields (i : Instr) : Laws.EncodingFields.Statement i := by
  cases i with
  | nop => exact Laws.EncodingFields.nop
  | srst => exact Laws.EncodingFields.srst
  | eclr => exact Laws.EncodingFields.eclr
  | kbegin => exact Laws.EncodingFields.kbegin
  | kbyte b => exact Laws.EncodingFields.kbyte b
  | kword => exact Laws.EncodingFields.kword
  | kend => exact Laws.EncodingFields.kend
  | bbegin => exact Laws.EncodingFields.bbegin
  | bchar c => exact Laws.EncodingFields.bchar c
  | bword => exact Laws.EncodingFields.bword
  | bend => exact Laws.EncodingFields.bend
  | hstart => exact Laws.EncodingFields.hstart
  | mbyte b => exact Laws.EncodingFields.mbyte b
  | mword => exact Laws.EncodingFields.mword
  | mctr => exact Laws.EncodingFields.mctr
  | hfinish => exact Laws.EncodingFields.hfinish

/-- A command is its mnemonic's command with its IMM8 (R81). -/
@[simp] theorem instr_mnemonic_imm8 (i : Instr) : i.mnemonic.instr i.imm8 = i := by cases i <;> rfl

/-- A command whose mnemonic takes no IMM8 has the field 0 (R80). -/
theorem imm8_eq_zero_or_takesImm (i : Instr) : i.imm8 = 0 ∨ i.mnemonic.takesImm = true := by
  cases i with
  | kbyte b | bchar b | mbyte b => exact .inr rfl
  | _ => exact .inl rfl

@[simp] theorem decode_encode (i : Instr) : decode (encode i) = .command i := by
  obtain ⟨hopc, hrsv, himm, -⟩ := encodingFields i
  rw [decode_eq_command_iff]
  exact ⟨i.mnemonic, hopc.symm, hrsv, by rw [himm]; exact imm8_eq_zero_or_takesImm i, by rw [himm, instr_mnemonic_imm8]⟩

/-- Settles O1: the fields of the encoding are those the decoder asks for. -/
theorem decodeOfEncodeIsTheCommand : Obligations.DecodeOfEncodeIsTheCommand := decode_encode

/-! ### Decode, then encode -/

@[simp] theorem mnemonic_instr (m : Mnemonic) (imm : Byte) : (m.instr imm).mnemonic = m := by cases m <;> rfl

/-- Only a mnemonic that takes an IMM8 keeps it (R81). -/
theorem imm8_instr {m : Mnemonic} {imm : Byte} (h : imm = 0 ∨ m.takesImm = true) : (m.instr imm).imm8 = imm := by
  cases m with
  | KBYTE | BCHAR | MBYTE => rfl
  | _ => exact (h.resolve_right (by decide)).symm

/-- A word with RSV zero is made of its opcode and its IMM8 (R80). -/
theorem word_eq_of_rsv_zero {w : Word} (h : rsvField w = 0) :
    w = ((opcField w).setWidth 32 <<< 24) ||| (immField w).setWidth 32 := by
  apply BitVec.eq_of_getLsbD_eq
  intro i hi
  have hrsv : ∀ j, j < 16 → w.getLsbD (8 + j) = false := fun j hj => by
    have hbit : (rsvField w).getLsbD j = false := by rw [h]; simp
    simpa [rsvField, hj] using hbit
  simp only [opcField, immField, BitVec.getLsbD_or, BitVec.getLsbD_shiftLeft, BitVec.getLsbD_setWidth,
    BitVec.getLsbD_extractLsb', hi]
  rcases Nat.lt_or_ge i 8 with h8 | h8
  · simp [h8, show i < 24 by omega]
  · rcases Nat.lt_or_ge i 24 with h24 | h24
    · have hzero := hrsv (i - 8) (by omega)
      rw [show 8 + (i - 8) = i by omega] at hzero
      simp [hzero, h24, show ¬ i < 8 by omega]
    · simp [show ¬ i < 24 by omega, show ¬ i < 8 by omega, show i - 24 < 8 by omega, show i - 24 < 32 by omega,
        show 24 + (i - 24) = i by omega]

/-- Settles O2: a legal word is made of the opcode of its command and its IMM8, as the encoding is. -/
theorem eachCommandHasOneWord : Obligations.EachCommandHasOneWord := by
  intro w i h
  obtain ⟨m, hopc, hrsv, himm, rfl⟩ := decode_eq_command_iff.1 h
  rw [encode, encodeParts, mnemonic_instr, imm8_instr himm, hopc]
  exact word_eq_of_rsv_zero hrsv

/-! ### The rows of the opcode table -/

/-- Every mask fixes all bits of the opcode field (R84). -/
theorem opcField_and_mask (w : Word) (m : Mnemonic) : opcField (w &&& m.mask) = opcField w := by
  have hmask : opcField m.mask = 0xFF#8 := by cases m <;> decide
  have hall : (0xFF#8 : Byte) = BitVec.allOnes 8 := by decide
  rw [opcField, BitVec.extractLsb'_and]
  show opcField w &&& opcField m.mask = opcField w
  rw [hmask, hall, BitVec.and_allOnes]

theorem opcField_encodeParts_zero (m : Mnemonic) : opcField (encodeParts m 0) = m.opcode := by cases m <;> decide

/-- A word that matches the row of a mnemonic has its opcode. -/
theorem opcField_of_matches {m : Mnemonic} {w : Word} (h : w &&& m.mask = encodeParts m 0) : opcField w = m.opcode := by
  rw [← opcField_and_mask w m, h, opcField_encodeParts_zero]

/-- Settles O4: both rows have the word's opcode, and the opcode names the mnemonic. -/
theorem tableRowsDoNotOverlap : Obligations.TableRowsDoNotOverlap := by
  intro m m' w h h'
  have hopc : m.opcode = m'.opcode := (opcField_of_matches h).symm.trans (opcField_of_matches h')
  have hsome : some m = some m' := by rw [← mnemonicOf_opcode m, ← mnemonicOf_opcode m', hopc]
  exact Option.some.inj hsome

/-- Settles O5: each word is looked up. -/
theorem someWordsOfEachFamilyDecode : Obligations.SomeWordsOfEachFamilyDecode := by
  refine ⟨?_, ?_, ?_, ?_, ?_, ?_, ?_, ?_, ?_⟩ <;> decide

end Sys2Proof

namespace Sys2Proof.Machine

/-! ### Command statements -/

/-- A command statement without an imm assembles to POLL and a CMD write with IMM8 zero (R89). -/
theorem assemble_cmd_none (m : Mnemonic) : assemble (.cmd m none) = .ok (asmCmd m 0) := rfl

/-- An imm that IMM8 holds is assembled for a command that takes one (R89). -/
theorem assemble_cmd_of_lt {m : Mnemonic} {imm : Nat} (hm : m.takesImm = true) (h : imm < 256) :
    assemble (.cmd m (some imm)) = .ok (asmCmd m imm) :=
  assemble_of_none (by simp [Stmt.error, hm, h])

theorem assemble_cmd_of_ge {m : Mnemonic} {imm : Nat} (hm : m.takesImm = true) (h : 256 ≤ imm) :
    assemble (.cmd m (some imm)) = .error .immTooWide :=
  assemble_of_error (by simp [Stmt.error, hm, Nat.not_lt.2 h])

theorem assemble_cmd_of_not_takesImm {m : Mnemonic} (hm : m.takesImm = false) (imm : Nat) :
    assemble (.cmd m (some imm)) = .error .immNotTaken :=
  assemble_of_error (by simp [Stmt.error, hm])

/-- The word of a command, in numbers (R84, R89). -/
theorem encodeParts_ofNat (m : Mnemonic) {imm : Nat} (h : imm < 256) :
    encodeParts m (BitVec.ofNat 8 imm) = BitVec.ofNat 32 (m.opcode.toNat * 2 ^ 24 + imm) := by
  have hopc : m.opcode.toNat < 2 ^ 8 := m.opcode.isLt
  have hhigh : ((m.opcode.setWidth 32 : Word) <<< 24).toNat = m.opcode.toNat <<< 24 := by
    rw [BitVec.toNat_shiftLeft, BitVec.toNat_setWidth, Nat.shiftLeft_eq, Nat.shiftLeft_eq]; omega
  have hlow : ((BitVec.ofNat 8 imm).setWidth 32 : Word).toNat = imm := by
    rw [BitVec.toNat_setWidth, BitVec.toNat_ofNat]; omega
  apply BitVec.eq_of_toNat_eq
  rw [encodeParts, BitVec.toNat_or, hhigh, hlow, BitVec.toNat_ofNat,
    ← Nat.shiftLeft_add_eq_or_of_lt (Nat.lt_of_lt_of_le h (by decide)), Nat.shiftLeft_eq]
  omega

/-- The host accesses of a command statement, in numbers (R89). -/
theorem asmCmd_eq (m : Mnemonic) {imm : Nat} (h : imm < 256) :
    asmCmd m imm = [.poll, .write (Config.base + 0x0C) 4 (BitVec.ofNat 32 (m.opcode.toNat * 2 ^ 24 + imm))] := by
  rw [asmCmd, encodeParts_ofNat m h]; rfl

/-- The mnemonics that take an IMM8 (R80). -/
theorem takesImm_iff_mem (m : Mnemonic) : m.takesImm = true ↔ m ∈ [Mnemonic.KBYTE, .BCHAR, .MBYTE] := by
  cases m <;> decide

/-- Settles O60: the statements by the four lemmas above on each row of the opcode table, the programs by
`assembleProgram_cases`. -/
theorem commandStatementsAssembleOrAreRefused : Obligations.CommandStatementsAssembleOrAreRefused := by
  refine ⟨fun p hp => ?statement, fun prog s => ?program⟩
  case statement =>
    have hopc : p.2 = p.1.opcode.toNat := by fin_cases hp <;> rfl
    rw [hopc, ← takesImm_iff_mem, assemble_cmd_none, asmCmd_eq p.1 (by decide), add_zero]
    refine ⟨rfl, fun imm => ⟨fun hm => ?_, fun hm h => ?_, fun hm h => ?_⟩⟩
    · exact assemble_cmd_of_not_takesImm (Bool.eq_false_of_not_eq_true hm) imm
    · rw [assemble_cmd_of_lt hm h, asmCmd_eq p.1 h]
    · exact assemble_cmd_of_ge hm h
  case program =>
    unfold State.withProgram
    rcases assembleProgram_cases prog with ⟨st, hmem, e, he, hprog⟩ | ⟨hnone, hprog⟩ <;> rw [hprog]
    · exact ⟨fun _ => ⟨e, rfl⟩, fun hall => by simp [hall st hmem] at he⟩
    · exact ⟨fun ⟨st, hmem, hne⟩ => absurd (hnone st hmem) hne, fun _ => rfl⟩

end Sys2Proof.Machine
end

section
/-! PROOFS. What every step keeps, packaged once: a property that the shared operations of the commands keep, and that does not
look at the host's side of the state, is kept by every step (70_reset R247). -/

namespace Sys2Proof.Machine

/-! ### The block's side of the state -/

/-- Error record, session, key, computation and digest are the same: all but CTRL, DATA0, DATA1, PEND and what is outside the
block. -/
def SameBlock (s t : State) : Prop :=
  SameError s t ∧ SameSession s t ∧ SameKey s t ∧ SameHmac s t ∧ SameDigest s t

/-- Whatever is written to the other fields, the block's side is the same. -/
theorem sameBlock_of_outside (s : State) (c : Ctrl) (d0 d1 : Word) (p : Option Pending) (r : Bool) (ins : List Input)
    (rds : List (Nat × Word)) (n : Nat) :
    SameBlock s { s with
      ctrl := c, data0 := d0, data1 := d1, pend := p, inReset := r, inputs := ins, reads := rds, freeCount := n } :=
  ⟨⟨rfl, rfl, rfl⟩, ⟨rfl, ⟨rfl, rfl, rfl⟩, rfl, rfl⟩, ⟨rfl, rfl, rfl⟩, ⟨rfl, rfl, rfl⟩, ⟨rfl, rfl⟩⟩

/-- A register write changes the block's side only when it drops a command word (20_memory R63, 70_reset R245). -/
theorem writeReg_sameBlock_or_busy (off : Nat) (v : Word) (s : State) :
    SameBlock s (writeReg off v s) ∨ writeReg off v s = recordError .busy (opcField v) s := by
  rcases writeReg_cases off v s with h | h | h | h | h <;> rw [h]
  case inr.inl =>
    rcases writeCmd_cases v s with ⟨_, d, h⟩ | ⟨_, h⟩ <;> rw [h]
    · exact .inl (sameBlock_of_outside s _ _ _ _ _ _ _ _)
    · exact .inr rfl
  all_goals exact .inl (sameBlock_of_outside s _ _ _ _ _ _ _ _)

/-! ### The phase of a session in progress -/

/-- A push keeps the phase or fails the session (42_key R141, R142). -/
theorem keyPush_ksph (b o : Byte) (s : State) : (keyPush b o s).ksph = s.ksph ∨ (keyPush b o s).ksph = .failed := by
  rcases keyPush_cases b o s with ⟨_, h⟩ | ⟨_, _, h⟩ | ⟨_, h⟩ | ⟨_, _, h⟩ <;> rw [h]
  · exact .inr rfl
  all_goals exact .inl rfl

theorem b32Value_ksph (v : BitVec 5) (o : Byte) (s : State) :
    (b32Value v o s).ksph = s.ksph ∨ (b32Value v o s).ksph = .failed := by
  rcases b32Value_cases v o s with ⟨_, h⟩ | ⟨_, h⟩ <;> rw [h]
  · exact .inl rfl
  · exact keyPush_ksph _ o { s with nbits := _, acc := _ }

/-- A character keeps the phase or fails the session (41_base32 R123). -/
theorem b32Char_ksph (strip : Bool) (c o : Byte) (s : State) :
    (b32Char strip c o s).ksph = s.ksph ∨ (b32Char strip c o s).ksph = .failed := by
  rcases b32Char_cases strip c o s with ⟨_, h⟩ | ⟨_, h⟩ | ⟨v, _, h⟩ <;> rw [h]
  · exact .inl rfl
  · exact .inr rfl
  · exact b32Value_ksph v o s

/-! ### Properties that the operations keep -/

/-- What a property needs so that every step keeps it: one field per operation that the commands, the inputs and the errors
are made of, with what holds where the operation runs. -/
structure KeptByOperations (P : State → Prop) : Prop where
  of_sameBlock : ∀ {s t : State}, SameBlock s t → P s → P t
  of_record : ∀ (c : ErrCode) (o : Byte) {s : State}, P s → P (recordError c o s)
  of_clear : ∀ {s : State}, P s → P (clearError s)
  /-- A session begins or ends (R125, R140, R147). -/
  of_staging : ∀ (ph : Phase) {s : State}, P s → P { clearStaging s with ksph := ph }
  of_fail : ∀ {s : State}, P s → P { s with ksph := .failed }
  of_push : ∀ (b o : Byte) {s : State}, s.ksph ≠ .idle → P s → P (keyPush b o s)
  of_value : ∀ (v : BitVec 5) (o : Byte) {s : State}, s.ksph = .b32 → P s → P (b32Value v o s)
  of_commit : ∀ {s : State}, P s → P (commit s)
  /-- A computation is opened (R193). -/
  of_start : ∀ {s : State}, s.kvalid = true → P s →
    P { s with ictx := Sha1Ctx.init.absorbAll (innerKey s.kp), mcnt := 0, hact := true }
  /-- Message bytes are absorbed (R198). -/
  of_absorb : ∀ (bs : List Byte) {s : State}, s.hact = true → s.mcnt + bs.length ≤ Config.maxMsgBytes → P s →
    P { s with ictx := s.ictx.absorbAll bs, mcnt := s.mcnt + bs.length }
  of_close : ∀ {s : State}, P s → P (closeHmac s)
  of_publish : ∀ (d : List Byte) {s : State}, P s → P (publish d s)
  of_softReset : ∀ {s : State}, P s → P (softReset s)
  of_resetBlock : ∀ {s : State}, P s → P (resetBlock s)

namespace KeptByOperations

variable {P : State → Prop} (hP : KeptByOperations P)
include hP

/-- An error that fails the session. -/
theorem failSession (c : ErrCode) (o : Byte) {s : State} (h : P s) : P { recordError c o s with ksph := .failed } :=
  hP.of_fail (hP.of_record c o h)

theorem endSession {s : State} (h : P s) : P (endSession s) := hP.of_staging .idle h

theorem keyPushAll (bs : List Byte) (o : Byte) {s : State} (hph : s.ksph ≠ .idle) (h : P s) :
    P (keyPushAll bs o s) := by
  induction bs generalizing s with
  | nil => exact h
  | cons b bs ih =>
    refine ih ?_ (hP.of_push b o hph h)
    rcases keyPush_ksph b o s with hk | hk <;> rw [hk]
    · exact hph
    · decide

theorem b32Char (strip : Bool) (c o : Byte) {s : State} (hph : s.ksph = .b32) (h : P s) : P (b32Char strip c o s) := by
  rcases b32Char_cases strip c o s with ⟨_, ht⟩ | ⟨_, ht⟩ | ⟨v, _, ht⟩ <;> rw [ht]
  · exact h
  · exact hP.failSession .invalidChar o h
  · exact hP.of_value v o hph h

theorem b32Chars (strip : Bool) (o : Byte) (cs : List Byte) {s : State} (hph : s.ksph = .b32 ∨ s.ksph = .failed)
    (h : P s) : P (b32Chars strip o cs s) := by
  induction cs generalizing s with
  | nil => exact h
  | cons c cs ih =>
    rw [b32Chars_cons, b32WordChar]
    split_ifs with hskip
    · exact ih hph h
    · have hb32 : s.ksph = .b32 := hph.resolve_right fun hf => hskip (.inl hf)
      refine ih ?_ (hP.b32Char strip c o hb32 h)
      rw [← hb32]
      exact b32Char_ksph strip c o s

theorem offerMessage (bs : List Byte) (o : Byte) {s : State} (h : P s) : P (offerMessage bs o s) := by
  rcases offerMessage_cases bs o s with ⟨_, ht⟩ | ⟨_, _, ht⟩ | ⟨hact, hfits, ht⟩ <;> rw [ht]
  · exact hP.of_record .sequence o h
  · exact hP.of_close (hP.of_record .length o h)
  · exact hP.of_absorb bs hact hfits h

/-- Every command keeps the property. -/
theorem exec {i : Instr} {s t : State} (h : P s) (ht : exec i s = .next t) : P t := by
  cases i with
  | nop => cases ht; exact h
  | srst => cases ht; exact hP.of_softReset h
  | eclr => cases ht; exact hP.of_clear h
  | kbegin => cases ht; exact hP.of_staging .raw h
  | bbegin => cases ht; exact hP.of_staging .b32 h
  | kbyte b =>
    rcases exec_kbyte_cases ht with ⟨_, rfl⟩ | ⟨_, _, rfl⟩ | ⟨hraw, rfl⟩
    · exact h
    · exact hP.of_record .sequence 0x11#8 h
    · exact hP.of_push b 0x11#8 (by simp [hraw]) h
  | kword =>
    rcases exec_kword_cases ht with ⟨_, rfl⟩ | ⟨_, _, rfl⟩ | ⟨_, _, rfl⟩ | ⟨hraw, _, rfl⟩
    · exact h
    · exact hP.of_record .sequence 0x12#8 h
    · exact hP.failSession .length 0x12#8 h
    · exact hP.keyPushAll s.data0Bytes 0x12#8 (by simp [hraw]) h
  | kend =>
    rcases exec_kend_cases ht with ⟨_, rfl⟩ | ⟨_, _, rfl⟩ | ⟨_, rfl⟩
    · exact hP.endSession h
    · exact hP.of_record .sequence 0x13#8 h
    · exact hP.of_commit h
  | bchar c =>
    rcases exec_bchar_cases ht with ⟨_, rfl⟩ | ⟨_, _, rfl⟩ | ⟨hb32, rfl⟩
    · exact h
    · exact hP.of_record .sequence 0x21#8 h
    · exact hP.b32Char _ c 0x21#8 hb32 h
  | bword =>
    rcases exec_bword_cases ht with ⟨_, rfl⟩ | ⟨_, _, rfl⟩ | ⟨hb32, rfl⟩
    · exact h
    · exact hP.of_record .sequence 0x22#8 h
    · exact hP.b32Chars _ 0x22#8 s.data0Bytes (.inl hb32) h
  | bend =>
    rcases exec_bend_cases ht with ⟨_, rfl⟩ | ⟨_, _, rfl⟩ | ⟨_, _, rfl⟩ | ⟨_, _, _, rfl⟩ | ⟨_, _, _, rfl⟩
    · exact hP.endSession h
    · exact hP.of_record .sequence 0x23#8 h
    · exact hP.endSession (hP.of_record .fractional 0x23#8 h)
    · exact hP.endSession (hP.of_record .empty 0x23#8 h)
    · exact hP.of_commit h
  | hstart =>
    rcases exec_hstart_cases ht with ⟨_, rfl⟩ | ⟨hkey, rfl⟩
    · exact hP.of_record .sequence 0x30#8 h
    · exact hP.of_start hkey h
  | mbyte b => cases ht; exact hP.offerMessage [b] 0x31#8 h
  | mword => cases ht; exact hP.offerMessage s.data0Bytes 0x32#8 h
  | mctr => cases ht; exact hP.offerMessage s.counterBytes 0x33#8 h
  | hfinish =>
    rcases exec_hfinish_cases ht with ⟨_, rfl⟩ | ⟨_, _, rfl⟩ | ⟨_, _, rfl⟩
    · exact hP.of_record .sequence 0x34#8 h
    · exact hP.of_close h
    · exact hP.of_publish _ (hP.of_close h)

/-- Writes to the fields outside the block's side keep the property. -/
theorem outside {s : State} (h : P s) (c : Ctrl) (d0 d1 : Word) (p : Option Pending) (r : Bool) (ins : List Input)
    (rds : List (Nat × Word)) (n : Nat) :
    P { s with
      ctrl := c, data0 := d0, data1 := d1, pend := p, inReset := r, inputs := ins, reads := rds, freeCount := n } :=
  hP.of_sameBlock (sameBlock_of_outside s c d0 d1 p r ins rds n) h

/-- Every completion keeps the property (R247). -/
theorem complete {p : Pending} {s t : State} (h : P s) (ht : complete p s = .next t) : P t := by
  rcases complete_cases ht with ⟨i, u, _, hu, rfl⟩ | ⟨_, rfl⟩
  · exact hP.outside (hP.exec h hu) _ _ _ _ _ _ _ _
  · exact hP.outside (hP.of_record .illegal (opcField p.word) h) _ _ _ _ _ _ _ _

/-- Every input keeps the property. -/
theorem inputStep {inp : Input} {s t : State} (h : P s) (ht : inputStep inp s = .next t) : P t := by
  rcases inputStep_cases ht with ⟨_, rfl⟩ | ⟨_, rfl⟩ | ⟨_, off, rfl⟩ | ⟨_, rfl⟩ | ⟨_, off, v, rfl⟩
  · exact hP.of_resetBlock (hP.outside h _ _ _ _ _ _ _ _)
  · exact hP.outside h _ _ _ _ _ _ _ _
  · exact hP.outside h _ _ _ _ _ _ _ _
  · exact hP.outside h _ _ _ _ _ _ _ _
  · rcases writeReg_sameBlock_or_busy off v s with hsame | hbusy
    · exact hP.of_sameBlock hsame h
    · rw [hbusy]; exact hP.of_record .busy (opcField v) h

/-- Every step keeps the property. -/
theorem step {s t : State} (h : P s) (ht : step s = .next t) : P t := by
  rcases step_cases s with ⟨_, _, heq⟩ | ⟨p, _, _, _, heq⟩ | ⟨_, inp, rest, _, _, _, _, heq⟩ | ⟨inp, rest, _, _, heq⟩ <;>
    rw [heq] at ht
  · cases ht; exact h
  · exact hP.complete h ht
  · exact hP.inputStep (hP.outside h _ _ _ _ _ _ _ _) ht
  · exact hP.inputStep (hP.outside h _ _ _ _ _ _ _ _) ht

end KeptByOperations

end Sys2Proof.Machine
end

section
/-! PROOFS. The byte sequence that a session stages (10_state R38, 42_key R141) and the key it commits (R143). -/

namespace Sys2Proof.Machine

/-- KRAW, KCNT and KCTX are those of a byte sequence (10_state R38). -/
def StagedKey (key : List Byte) (s : State) : Prop :=
  key.length = s.kcnt ∧ s.kraw = key.take 64 ∧ (64 < key.length → s.kctx = Sha1Ctx.init.absorbAll key)

/-- A cleared staging key is the empty one. -/
theorem stagedKey_nil {s : State} (hcnt : s.kcnt = 0) (hraw : s.kraw = []) : StagedKey [] s :=
  ⟨hcnt.symm, hraw, fun h => absurd h (by decide)⟩

theorem StagedKey.of_sameStagedBytes {key : List Byte} {s t : State} (h : StagedKey key s) (hst : SameStagedBytes s t) :
    StagedKey key t := by
  obtain ⟨hraw, hcnt, hctx⟩ := hst
  unfold StagedKey
  rw [hraw, hcnt, hctx]
  exact h

/-- A push below the limit stages one more byte (R141). -/
theorem StagedKey.pushed {key : List Byte} {b o : Byte} {s t : State} (h : StagedKey key s) (hpush : KeyPushed b o s t)
    (hlimit : s.kcnt ≠ Config.maxKeyBytes) : StagedKey (key ++ [b]) t := by
  obtain ⟨hlen, hraw, hctx⟩ := h
  obtain ⟨_, _, hkcnt, hlt, heq, hgt⟩ := hpush.2 hlimit
  have hlen' : (key ++ [b]).length = key.length + 1 := by rw [List.length_append, List.length_singleton]
  have habsorb : Sha1Ctx.init.absorbAll (key ++ [b]) = (Sha1Ctx.init.absorbAll key).absorb b := absorbAll_append _ key [b]
  refine ⟨by rw [hlen', hlen, hkcnt], ?_, fun hlong => ?_⟩
  · rcases Nat.lt_trichotomy s.kcnt 64 with h | h | h
    · rw [(hlt h).1, hraw, List.take_of_length_le (by omega), List.take_of_length_le (by omega)]
    · rw [(heq h).1, hraw, List.take_append_of_le_length (by omega)]
    · rw [(hgt h).1, hraw, List.take_append_of_le_length (by omega)]
  · rcases Nat.lt_trichotomy s.kcnt 64 with h | h | h
    · omega
    · rw [(heq h).2, hraw, List.take_of_length_le (by omega), habsorb]
    · rw [(hgt h).2, hctx (by omega), habsorb]

/-- K' of the staging state is the expansion of the key it stages (R143). -/
theorem StagedKey.expandStaged {key : List Byte} {s : State} (h : StagedKey key s) : s.expandStaged = expandKey key := by
  obtain ⟨hlen, hraw, hctx⟩ := h
  unfold State.expandStaged expandKey
  rw [hlen]
  split_ifs with hle
  · rw [hraw, List.take_of_length_le (by omega)]
  · rw [hctx (by omega)]; rfl

/-- Some key is staged after a push, the old one if it met the limit (R141, R142). -/
theorem StagedKey.after_push {key : List Byte} {s : State} (h : StagedKey key s) (b o : Byte) :
    ∃ key', StagedKey key' (keyPush b o s) := by
  by_cases hmax : s.kcnt = Config.maxKeyBytes
  · obtain ⟨hfull, _⟩ := keyPush_pushed b o s
    obtain ⟨_, _, hsame⟩ := hfull hmax
    exact ⟨key, h.of_sameStagedBytes hsame⟩
  · exact ⟨key ++ [b], h.pushed (keyPush_pushed b o s) hmax⟩

end Sys2Proof.Machine
end

section
/-! PROOFS. The invariants of the block (10_state section 3), each of which the operations keep, so every step does; and that
they hold at reset. -/

namespace Sys2Proof.Machine

/-! ### The seven invariants of R42 -/

theorem StatusInv.of_sameBlock {s t : State} (h : SameBlock s t) (hs : StatusInv s) : StatusInv t := by
  obtain ⟨⟨herr, hcode, hopc⟩, ⟨hksph, ⟨_, hkcnt, _⟩, hacc, hnbits⟩, ⟨hkvalid, _, _⟩, ⟨hhact, _, _⟩, hdvalid, hdig⟩ := h
  refine ⟨?_, ?_, ?_, ?_, ?_, ?_, by simp [State.klong]⟩
  · rw [hhact, hkvalid]; exact hs.hact_key
  · rw [hksph, hkcnt, hnbits, hacc]; exact hs.idle_clear
  · rw [hksph, hnbits]; exact hs.raw_nbits
  · rw [hnbits]; exact hs.nbits_le
  · rw [herr, hcode, hopc]; exact hs.err_clear
  · rw [hdvalid, hdig]; exact hs.dig_clear

/-- RecordError keeps R42: ERR = 1 afterwards. -/
theorem StatusInv.recordError {s : State} (hs : StatusInv s) (c : ErrCode) (o : Byte) : StatusInv (recordError c o s) where
  hact_key := by simpa using hs.hact_key
  idle_clear := by simpa using hs.idle_clear
  raw_nbits := by simpa using hs.raw_nbits
  nbits_le := by simpa using hs.nbits_le
  err_clear := by simp
  dig_clear := by simpa using hs.dig_clear
  klong_iff := by simp [State.klong]

theorem StatusInv.fail {s : State} (hs : StatusInv s) : StatusInv { s with ksph := .failed } :=
  ⟨hs.hact_key, nofun, nofun, hs.nbits_le, hs.err_clear, hs.dig_clear, hs.klong_iff⟩

/-- A push inside a session keeps R42: the bits stay, and the count may grow. -/
theorem StatusInv.push {s : State} (hs : StatusInv s) (b o : Byte) (hph : s.ksph ≠ .idle) : StatusInv (keyPush b o s) := by
  have hidle : ∀ n : Nat, s.ksph = .idle → n = 0 ∧ s.nbits = 0 ∧ s.acc = 0 := fun _ h => absurd h hph
  rcases keyPush_cases b o s with ⟨_, h⟩ | ⟨_, _, h⟩ | ⟨_, h⟩ | ⟨_, _, h⟩ <;> rw [h]
  · exact (hs.recordError .length o).fail
  all_goals
    exact ⟨hs.hact_key, hidle _, hs.raw_nbits, hs.nbits_le, hs.err_clear, hs.dig_clear, by simp [State.klong]⟩

/-- In a Base32 session at most seven bits are R42's only condition on the decoder. -/
theorem StatusInv.bits {s : State} (hs : StatusInv s) (hph : s.ksph = .b32) (acc : BitVec 12) {n : Nat} (hn : n ≤ 7) :
    StatusInv { s with acc := acc, nbits := n } :=
  ⟨hs.hact_key, fun h => by simp [hph] at h, fun h => by simp [hph] at h, hn, hs.err_clear, hs.dig_clear, hs.klong_iff⟩

theorem StatusInv.value {s : State} (hs : StatusInv s) (v : BitVec 5) (o : Byte) (hph : s.ksph = .b32) :
    StatusInv (b32Value v o s) := by
  have hle := hs.nbits_le
  rcases b32Value_cases v o s with ⟨_, h⟩ | ⟨_, h⟩ <;> rw [h]
  · exact hs.bits hph _ (by omega)
  · exact (hs.bits hph _ (by omega)).push _ o (by simp [hph])

theorem statusInv_keptByOperations : KeptByOperations StatusInv where
  of_sameBlock := StatusInv.of_sameBlock
  of_record c o _ hs := hs.recordError c o
  of_clear hs := ⟨hs.hact_key, hs.idle_clear, hs.raw_nbits, hs.nbits_le, fun _ => ⟨rfl, rfl⟩, hs.dig_clear, hs.klong_iff⟩
  of_staging _ _ hs :=
    ⟨hs.hact_key, fun _ => ⟨rfl, rfl, rfl⟩, fun _ => rfl, Nat.zero_le 7, hs.err_clear, hs.dig_clear, by simp [State.klong]⟩
  of_fail := StatusInv.fail
  of_push b o _ hph hs := hs.push b o hph
  of_value v o _ hph hs := hs.value v o hph
  of_commit hs := ⟨nofun, fun _ => ⟨rfl, rfl, rfl⟩, nofun, Nat.zero_le 7, hs.err_clear, hs.dig_clear, by simp [State.klong]⟩
  of_start hkey hs := ⟨fun _ => hkey, hs.idle_clear, hs.raw_nbits, hs.nbits_le, hs.err_clear, hs.dig_clear, hs.klong_iff⟩
  of_absorb _ _ _ _ hs :=
    ⟨hs.hact_key, hs.idle_clear, hs.raw_nbits, hs.nbits_le, hs.err_clear, hs.dig_clear, hs.klong_iff⟩
  of_close hs := ⟨nofun, hs.idle_clear, hs.raw_nbits, hs.nbits_le, hs.err_clear, hs.dig_clear, hs.klong_iff⟩
  of_publish _ _ hs := ⟨hs.hact_key, hs.idle_clear, hs.raw_nbits, hs.nbits_le, hs.err_clear, nofun, hs.klong_iff⟩
  of_softReset _ := ⟨nofun, fun _ => ⟨rfl, rfl, rfl⟩, nofun, Nat.zero_le 7, fun _ => ⟨rfl, rfl⟩, fun _ => rfl,
    by simp [State.klong]⟩
  of_resetBlock _ := ⟨nofun, fun _ => ⟨rfl, rfl, rfl⟩, nofun, Nat.zero_le 7, fun _ => ⟨rfl, rfl⟩, fun _ => rfl,
    by simp [State.klong]⟩

/-- Settles O51: the operations keep R42 (`statusInv_keptByOperations`), so every step does. -/
theorem stepKeepsTheStatusInvariants : Obligations.StepKeepsTheStatusInvariants :=
  fun _ _ hs ht => statusInv_keptByOperations.step hs ht

/-- Settles O52: every premise of the seven is false or its conclusion a reset value. -/
theorem resetMeetsTheStatusInvariants : Obligations.ResetMeetsTheStatusInvariants :=
  ⟨nofun, fun _ => ⟨rfl, rfl, rfl⟩, nofun, Nat.zero_le 7, fun _ => ⟨rfl, rfl⟩, fun _ => rfl, by simp [State.klong]⟩

/-! ### The bounds of R34, R37, R39 and R40 -/

theorem SizeInv.of_sameBlock {s t : State} (h : SameBlock s t) (hs : SizeInv s) : SizeInv t := by
  obtain ⟨_, ⟨_, ⟨hkraw, hkcnt, hkctx⟩, hacc, hnbits⟩, ⟨_, hkp, _⟩, ⟨hhact, hictx, hmcnt⟩, _⟩ := h
  constructor
  · rw [hnbits, hacc]; exact hs.acc_lt
  · rw [hkcnt]; exact hs.kcnt_le
  · rw [hkraw, hkcnt]; exact hs.kraw_len
  · rw [hkcnt, hkctx]; exact hs.kctx_wf
  · rw [hkp]; exact hs.kp_len
  · rw [hmcnt]; exact hs.mcnt_le
  · rw [hhact, hictx, hmcnt]; exact hs.ictx_wf

theorem SizeInv.recordError {s : State} (hs : SizeInv s) (c : ErrCode) (o : Byte) : SizeInv (recordError c o s) where
  acc_lt := by simpa using hs.acc_lt
  kcnt_le := by simpa using hs.kcnt_le
  kraw_len := by simpa using hs.kraw_len
  kctx_wf := by simpa using hs.kctx_wf
  kp_len := by simpa using hs.kp_len
  mcnt_le := by simpa using hs.mcnt_le
  ictx_wf := by simpa using hs.ictx_wf

theorem SizeInv.fail {s : State} (hs : SizeInv s) : SizeInv { s with ksph := .failed } :=
  ⟨hs.acc_lt, hs.kcnt_le, hs.kraw_len, hs.kctx_wf, hs.kp_len, hs.mcnt_le, hs.ictx_wf⟩

/-- A context within the bounds of R34 that absorbs bytes stays within them, and counts the bytes. -/
theorem absorbAll_wf_and_cnt {c : Sha1Ctx} {bs : List Byte} {n : Nat} (hc : c.Wf) (hn : c.cnt + bs.length = n)
    (hlt : n < 2 ^ 61) : (c.absorbAll bs).Wf ∧ (c.absorbAll bs).cnt = n :=
  ⟨absorbAll_wf hc bs (hn ▸ hlt), (absorbAll_cnt c bs).trans hn⟩

/-- A push keeps the bounds: below the limit KCNT grows by one, and the hash that is live above 64 bytes counts it. -/
theorem SizeInv.push {s : State} (hs : SizeInv s) (b o : Byte) : SizeInv (keyPush b o s) := by
  have hle := hs.kcnt_le
  have hmax : Config.maxKeyBytes = 2 ^ 61 - 1 := rfl
  have hraw := hs.kraw_len
  rcases keyPush_cases b o s with ⟨_, h⟩ | ⟨hne, hlt, h⟩ | ⟨h64, h⟩ | ⟨hne, hgt, h⟩ <;> rw [h]
  · exact (hs.recordError .length o).fail
  · refine ⟨hs.acc_lt, ?_, ?_, fun hlong => ?_, hs.kp_len, hs.mcnt_le, hs.ictx_wf⟩
    · show s.kcnt + 1 ≤ _; omega
    · show (s.kraw ++ [b]).length = min (s.kcnt + 1) 64; rw [List.length_append, List.length_singleton]; omega
    · have : 64 < s.kcnt + 1 := hlong
      omega
  · refine ⟨hs.acc_lt, ?_, ?_, fun _ => ?_, hs.kp_len, hs.mcnt_le, hs.ictx_wf⟩
    · show s.kcnt + 1 ≤ _; omega
    · show s.kraw.length = min (s.kcnt + 1) 64; omega
    · show ((Sha1Ctx.init.absorbAll s.kraw).absorb b).Wf ∧ ((Sha1Ctx.init.absorbAll s.kraw).absorb b).cnt = s.kcnt + 1
      have hall := absorbAll_append Sha1Ctx.init s.kraw [b]
      rw [absorbAll_cons, absorbAll_nil] at hall
      rw [← hall]
      have hcnt : Sha1Ctx.init.cnt = 0 := rfl
      exact absorbAll_wf_and_cnt init_wf (by rw [List.length_append, List.length_singleton]; omega) (by omega)
  · obtain ⟨hwf, hcnt⟩ := hs.kctx_wf hgt
    refine ⟨hs.acc_lt, ?_, ?_, fun _ => ?_, hs.kp_len, hs.mcnt_le, hs.ictx_wf⟩
    · show s.kcnt + 1 ≤ _; omega
    · show s.kraw.length = min (s.kcnt + 1) 64; omega
    · exact absorbAll_wf_and_cnt (bs := [b]) hwf (by simp [hcnt]) (show s.kcnt + 1 < 2 ^ 61 by omega)

/-- Unpacking a value keeps the bounds of R122. -/
theorem BitsBounded.after_value {s : State} (hs : BitsBounded s) (v : BitVec 5) (o : Byte) :
    BitsBounded (b32Value v o s) := by
  obtain ⟨hle, hlt⟩ := hs
  have hv := v.isLt
  rcases Nat.lt_or_ge s.nbits 3 with hn | hn
  · obtain ⟨hacc, hnbits, _⟩ := b32Value_short (v := v) (o := o) ⟨hle, hlt⟩ hn rfl
    refine ⟨by omega, ?_⟩
    rw [hacc, hnbits, Nat.pow_add]
    omega
  · obtain ⟨hacc, hnbits, _⟩ := b32Value_long (v := v) (o := o) ⟨hle, hlt⟩ hn rfl
    refine ⟨by omega, ?_⟩
    rw [hacc, hnbits]
    exact Nat.mod_lt _ (Nat.two_pow_pos _)

theorem SizeInv.bits {s : State} (hs : SizeInv s) {acc : BitVec 12} {n : Nat} (h : n ≤ 7 ∧ acc.toNat < 2 ^ n) :
    SizeInv { s with acc := acc, nbits := n } :=
  ⟨h, hs.kcnt_le, hs.kraw_len, hs.kctx_wf, hs.kp_len, hs.mcnt_le, hs.ictx_wf⟩

/-- One value keeps the bounds: the bits as BCHAR decodes them (41_base32 R122, R123), and a byte pushed. -/
theorem SizeInv.value {s : State} (hs : SizeInv s) (v : BitVec 5) (o : Byte) : SizeInv (b32Value v o s) := by
  have hbits : BitsBounded (b32Value v o s) := BitsBounded.after_value hs.acc_lt v o
  rcases b32Value_cases v o s with ⟨_, h⟩ | ⟨_, h⟩ <;> rw [h] at hbits ⊢
  · exact hs.bits hbits
  · obtain ⟨hacc, hnbits⟩ := keyPush_sameBits _ o { s with nbits := _, acc := _ }
    unfold BitsBounded at hbits
    rw [hacc, hnbits] at hbits
    exact (hs.bits hbits).push _ o

/-- An empty decoder is within the bounds of R122. -/
theorem noBits_bounded : (0 : Nat) ≤ 7 ∧ (0 : BitVec 12).toNat < 2 ^ 0 := by decide

/-- K' is one block (42_key R143). -/
theorem expandStaged_length {s : State} (hraw : s.kraw.length = min s.kcnt 64) : s.expandStaged.length = 64 := by
  unfold State.expandStaged
  split_ifs with hle
  · rw [List.length_append, zeros_length]; omega
  · rw [List.length_append, zeros_length, final_length]

theorem innerKey_length (kp : List Byte) : (innerKey kp).length = kp.length := List.length_map _

theorem sizeInv_keptByOperations : KeptByOperations SizeInv where
  of_sameBlock := SizeInv.of_sameBlock
  of_record c o _ hs := hs.recordError c o
  of_clear hs := ⟨hs.acc_lt, hs.kcnt_le, hs.kraw_len, hs.kctx_wf, hs.kp_len, hs.mcnt_le, hs.ictx_wf⟩
  of_staging _ _ hs := ⟨noBits_bounded, Nat.zero_le _, rfl, nofun, hs.kp_len, hs.mcnt_le, hs.ictx_wf⟩
  of_fail := SizeInv.fail
  of_push b o _ _ hs := hs.push b o
  of_value v o _ _ hs := hs.value v o
  of_commit hs := ⟨noBits_bounded, Nat.zero_le _, rfl, nofun, expandStaged_length hs.kraw_len, hs.mcnt_le, nofun⟩
  of_start {s} _ hs := by
    refine ⟨hs.acc_lt, hs.kcnt_le, hs.kraw_len, hs.kctx_wf, hs.kp_len, Nat.zero_le _, fun _ => ?_⟩
    exact absorbAll_wf_and_cnt init_wf (by rw [innerKey_length, hs.kp_len]; rfl)
      (show 64 + 0 < 2 ^ 61 by decide)
  of_absorb bs {s} hact hfits hs := by
    obtain ⟨hwf, hcnt⟩ := hs.ictx_wf hact
    have hmax : Config.maxMsgBytes = 2 ^ 61 - 65 := rfl
    refine ⟨hs.acc_lt, hs.kcnt_le, hs.kraw_len, hs.kctx_wf, hs.kp_len, hfits, fun _ => ?_⟩
    exact absorbAll_wf_and_cnt hwf (show _ = 64 + (s.mcnt + bs.length) by omega)
      (show 64 + (s.mcnt + bs.length) < 2 ^ 61 by omega)
  of_close hs := ⟨hs.acc_lt, hs.kcnt_le, hs.kraw_len, hs.kctx_wf, hs.kp_len, hs.mcnt_le, nofun⟩
  of_publish _ _ hs := ⟨hs.acc_lt, hs.kcnt_le, hs.kraw_len, hs.kctx_wf, hs.kp_len, hs.mcnt_le, hs.ictx_wf⟩
  of_softReset _ := ⟨noBits_bounded, Nat.zero_le _, rfl, nofun, softReset_kp_length _, Nat.zero_le _, nofun⟩
  of_resetBlock _ := ⟨noBits_bounded, Nat.zero_le _, rfl, nofun, resetBlock_kp_length _, Nat.zero_le _, nofun⟩

/-- Settles O53: the operations keep the bounds (`sizeInv_keptByOperations`), so every step does. -/
theorem stepKeepsTheSizes : Obligations.StepKeepsTheSizes :=
  fun _ _ hs ht => sizeInv_keptByOperations.step hs ht

/-- Settles O54: every count is 0, and the model's KP at reset has 64 bytes. -/
theorem resetMeetsTheSizes : Obligations.ResetMeetsTheSizes :=
  ⟨noBits_bounded, Nat.zero_le _, rfl, nofun, List.length_replicate, Nat.zero_le _, nofun⟩

/-! ### The abstract view of R38, R146 and R40 -/

theorem AbstractInv.of_sameBlock {s t : State} (h : SameBlock s t) (hs : AbstractInv s) : AbstractInv t := by
  obtain ⟨_, ⟨_, hbytes, _⟩, ⟨hkvalid, hkp, hklen⟩, ⟨hhact, hictx, hmcnt⟩, _⟩ := h
  obtain ⟨key, hkey⟩ := hs.staged
  refine ⟨⟨key, StagedKey.of_sameStagedBytes hkey hbytes⟩, ?_, ?_⟩
  · rw [hkvalid, hkp, hklen]; exact hs.committed
  · rw [hhact, hictx, hmcnt, hkp]; exact hs.message

theorem AbstractInv.recordError {s : State} (hs : AbstractInv s) (c : ErrCode) (o : Byte) :
    AbstractInv (recordError c o s) where
  staged := by simpa using hs.staged
  committed := by simpa using hs.committed
  message := by simpa using hs.message

/-- A push keeps the abstract view: a key is staged, and nothing outside the session is touched. -/
theorem AbstractInv.push {s : State} (hs : AbstractInv s) (b o : Byte) : AbstractInv (keyPush b o s) := by
  obtain ⟨key, hkey⟩ := hs.staged
  obtain ⟨_, ⟨hkvalid, hkp, hklen⟩, ⟨hhact, hictx, hmcnt⟩, _⟩ := keyPush_only b o s
  refine ⟨StagedKey.after_push hkey b o, ?_, ?_⟩
  · rw [hkvalid, hkp, hklen]; exact hs.committed
  · rw [hhact, hictx, hmcnt, hkp]; exact hs.message

theorem AbstractInv.value {s : State} (hs : AbstractInv s) (v : BitVec 5) (o : Byte) : AbstractInv (b32Value v o s) := by
  have hbits : ∀ (acc : BitVec 12) (n : Nat), AbstractInv { s with acc := acc, nbits := n } :=
    fun _ _ => ⟨hs.staged, hs.committed, hs.message⟩
  rcases b32Value_cases v o s with ⟨_, h⟩ | ⟨_, h⟩ <;> rw [h]
  · exact hbits _ _
  · exact (hbits _ _).push _ o

/-- A commit makes the staged key the committed one (R146). -/
theorem AbstractInv.commit {s : State} (hs : AbstractInv s) : AbstractInv (commit s) := by
  obtain ⟨key, hkey⟩ := hs.staged
  refine ⟨⟨[], stagedKey_nil rfl rfl⟩, fun _ => ⟨key, StagedKey.expandStaged hkey, ?_⟩, nofun⟩
  rw [commit_klen, hkey.1]

/-- Absorbed bytes lengthen the message (R198). -/
theorem AbstractInv.absorb {s : State} (hs : AbstractInv s) (hact : s.hact = true) (bs : List Byte) :
    AbstractInv { s with ictx := s.ictx.absorbAll bs, mcnt := s.mcnt + bs.length } := by
  obtain ⟨msg, hlen, hictx⟩ := hs.message hact
  refine ⟨hs.staged, hs.committed, fun _ => ⟨msg ++ bs, ?_, ?_⟩⟩
  · rw [List.length_append, hlen]
  · show s.ictx.absorbAll bs = _
    rw [hictx, ← absorbAll_append, List.append_assoc]

theorem abstractInv_keptByOperations : KeptByOperations AbstractInv where
  of_sameBlock := AbstractInv.of_sameBlock
  of_record c o _ hs := hs.recordError c o
  of_clear hs := ⟨hs.staged, hs.committed, hs.message⟩
  of_staging _ _ hs := ⟨⟨[], stagedKey_nil rfl rfl⟩, hs.committed, hs.message⟩
  of_fail hs := ⟨hs.staged, hs.committed, hs.message⟩
  of_push b o _ _ hs := hs.push b o
  of_value v o _ _ hs := hs.value v o
  of_commit := AbstractInv.commit
  of_start _ hs := ⟨hs.staged, hs.committed, fun _ => ⟨[], rfl, by rw [List.append_nil]⟩⟩
  of_absorb bs _ hact _ hs := hs.absorb hact bs
  of_close hs := ⟨hs.staged, hs.committed, nofun⟩
  of_publish _ _ hs := ⟨hs.staged, hs.committed, hs.message⟩
  of_softReset _ := ⟨⟨[], stagedKey_nil rfl rfl⟩, nofun, nofun⟩
  of_resetBlock _ := ⟨⟨[], stagedKey_nil rfl rfl⟩, nofun, nofun⟩

/-- Settles O55: the operations keep the abstract view (`abstractInv_keptByOperations`), so every step does. -/
theorem stepKeepsTheAbstractView : Obligations.StepKeepsTheAbstractView :=
  fun _ _ hs ht => abstractInv_keptByOperations.step hs ht

/-- Settles O56: the empty key is staged; no key is committed and no computation open. -/
theorem resetMeetsTheAbstractView : Obligations.ResetMeetsTheAbstractView :=
  ⟨⟨[], stagedKey_nil rfl rfl⟩, nofun, nofun⟩

end Sys2Proof.Machine
end

section
/-! PROOFS. SHA-1 (43_sha1): the schedule (R165), the padding (R170, R171), and streaming against whole blocks (R163, R173);
with the byte order of counts (00_scope R7) and the expansion of keys (42_key R143, R144). -/

namespace Sys2Proof.Machine

/-! ### Big-endian bytes in numbers -/

/-- A byte of a 32-bit number. -/
theorem extractLsb'_ofNat_byte (n : Nat) {k : Nat} (hk : k ≤ 24) :
    (BitVec.ofNat 32 n).extractLsb' k 8 = BitVec.ofNat 8 (n / 2 ^ k) := by
  apply BitVec.eq_of_getLsbD_eq
  intro i hi
  simp only [BitVec.getLsbD_extractLsb', BitVec.getLsbD_ofNat, Nat.testBit_div_two_pow, hi, show i + k < 32 by omega,
    Nat.add_comm k i, decide_true, Bool.true_and]

theorem be32Bytes_ofNat (n : Nat) :
    be32Bytes (BitVec.ofNat 32 n) =
      [BitVec.ofNat 8 (n / 2 ^ 24), BitVec.ofNat 8 (n / 2 ^ 16), BitVec.ofNat 8 (n / 2 ^ 8), BitVec.ofNat 8 (n / 2 ^ 0)] := by
  simp only [be32Bytes, extractLsb'_ofNat_byte n (Nat.le_refl 24), extractLsb'_ofNat_byte n (show 16 ≤ 24 by decide),
    extractLsb'_ofNat_byte n (show 8 ≤ 24 by decide), extractLsb'_ofNat_byte n (Nat.zero_le 24)]

/-- `BE64(n)` is the eight base-256 digits of n, most significant first (R7). -/
theorem be64Bytes_eq_digits (n : Nat) :
    be64Bytes n = (List.range 8).map (fun j => BitVec.ofNat 8 (n / 256 ^ (7 - j))) := by
  rw [be64Bytes, be32Bytes_ofNat, be32Bytes_ofNat]
  simp only [Nat.div_div_eq_div_mul]
  rfl

/-- Settles O26: the latched halves are the counter's, so their bytes are those of `BE64`. -/
theorem counterOperandIsBigEndian : Obligations.CounterOperandIsBigEndian := by
  intro s p v _ hp h1 h0
  have hlow : BitVec.ofNat 32 (v % 2 ^ 32) = BitVec.ofNat 32 v :=
    BitVec.eq_of_toNat_eq (by simp only [BitVec.toNat_ofNat, Nat.mod_mod])
  rw [State.counterBytes, latched_of_pend hp, h1, h0, hlow]
  exact be64Bytes_eq_digits v

/-! ### The expansion of a key -/

theorem expandKey_of_le {key : List Byte} (h : key.length ≤ 64) : expandKey key = key ++ zeros (64 - key.length) := if_pos h

theorem expandKey_of_gt {key : List Byte} (h : 64 < key.length) : expandKey key = sha1 key ++ zeros 44 :=
  if_neg (Nat.not_le.2 h)

/-- K' is one block (R143). -/
@[simp] theorem expandKey_length (key : List Byte) : (expandKey key).length = 64 := by
  rcases Nat.lt_or_ge 64 key.length with h | h
  · rw [expandKey_of_gt h, List.length_append, sha1_length, zeros_length]
  · rw [expandKey_of_le h, List.length_append, zeros_length]; omega

/-- A trailing zero byte is one of the zeros that fill the block (R144). -/
theorem expandKey_append_zero {key : List Byte} (h : key.length < 64) :
    expandKey (key ++ [0x00#8]) = expandKey key := by
  have hzeros : [0x00#8] ++ zeros (64 - (key.length + 1)) = zeros (64 - key.length) := by
    rw [show 64 - key.length = (64 - (key.length + 1)) + 1 by omega]; rfl
  rw [expandKey_of_le (by rw [List.length_append, List.length_singleton]; omega), expandKey_of_le (Nat.le_of_lt h),
    List.length_append, List.length_singleton, List.append_assoc, hzeros]

/-- Settles O20: the two cases of the expansion, and `expandKey_append_zero` for the trailing zero. -/
theorem expandedKeysAreOneBlock : Obligations.ExpandedKeysAreOneBlock := by
  refine ⟨expandKey_length, rfl, fun key h => ?_, fun key h => expandKey_of_gt h, fun key h => expandKey_append_zero h⟩
  rw [expandKey_of_le (Nat.le_of_eq h), h]
  exact List.append_nil key

/-! ### The message schedule -/

theorem scheduleMore_length (n : Nat) (ws : List Word) : (scheduleMore n ws).length = n + ws.length := by
  induction n generalizing ws with
  | zero => rw [scheduleMore, Nat.zero_add]
  | succ n ih => rw [scheduleMore, ih, List.length_cons]; omega

/-- The words that were there stay below the words added (R165, newest first). -/
theorem scheduleMore_drop (n : Nat) (ws : List Word) : (scheduleMore n ws).drop n = ws := by
  induction n generalizing ws with
  | zero => rfl
  | succ n ih => rw [scheduleMore, ← List.drop_drop, ih]; rfl

/-- Each word added is the recurrence on those below it (R165). -/
theorem scheduleMore_drop_of_lt {n k : Nat} (hk : k < n) (ws : List Word) :
    (scheduleMore n ws).drop k =
      scheduleWord ((scheduleMore n ws).drop (k + 1)) :: (scheduleMore n ws).drop (k + 1) := by
  induction n generalizing ws with
  | zero => omega
  | succ n ih =>
    rcases Nat.lt_or_ge k n with hlt | hge
    · exact ih hlt _
    · obtain rfl : k = n := by omega
      rw [scheduleMore_drop (k + 1) ws]
      exact scheduleMore_drop k _

/-- An entry of what is left of a list. -/
theorem getD_drop {α : Type} (l : List α) (a b : Nat) (x : α) : (l.drop a).getD b x = l.getD (a + b) x := by
  simp only [List.getD_eq_getElem?_getD, List.getElem?_drop]

/-- The recurrence of R165 on a list that holds the newest word first. -/
theorem scheduleMore_getD {n k : Nat} (hk : k < n) (ws : List Word) :
    let w := scheduleMore n ws
    w.getD k 0 = rotl 1 (w.getD (k + 3) 0 ^^^ w.getD (k + 8) 0 ^^^ w.getD (k + 14) 0 ^^^ w.getD (k + 16) 0) := by
  have hhead := getD_drop (scheduleMore n ws) k 0 0
  rw [scheduleMore_drop_of_lt hk] at hhead
  refine hhead.symm.trans ?_
  show scheduleWord _ = _
  simp only [scheduleWord, getD_drop, Nat.add_assoc, Nat.reduceAdd]

theorem schedule_length {m : List Word} (h : m.length = 16) : (schedule m).length = 80 := by
  rw [schedule, List.length_reverse, scheduleMore_length, List.length_reverse, h]

/-- W[t] from the end of the list that holds the newest word first. -/
theorem schedule_getD {m : List Word} (h : m.length = 16) {t : Nat} (ht : t < 80) :
    (schedule m).getD t 0 = (scheduleMore 64 m.reverse).getD (79 - t) 0 := by
  have hlen : (scheduleMore 64 m.reverse).length = 80 := by rw [scheduleMore_length, List.length_reverse, h]
  rw [schedule, congrFun (List.getD_reverse t (by omega)) 0, hlen]

/-- Settles O21: the first sixteen words are the block below the words added, the others follow `scheduleMore_getD`. -/
theorem scheduleFollowsItsRecurrence : Obligations.ScheduleFollowsItsRecurrence := by
  refine fun m h => ⟨schedule_length h, fun t ht => ?block, fun t hge hlt => ?recurrence⟩
  case block =>
    have hdrop := getD_drop (scheduleMore 64 m.reverse) 64 (15 - t) 0
    rw [scheduleMore_drop, congrFun (List.getD_reverse (15 - t) (by omega)) 0,
      show m.length - 1 - (15 - t) = t by omega] at hdrop
    rw [schedule_getD h (by omega), hdrop, show 64 + (15 - t) = 79 - t by omega]
  case recurrence =>
    have hrec := scheduleMore_getD (show 79 - t < 64 by omega) m.reverse
    rw [schedule_getD h hlt, schedule_getD h (show t - 3 < 80 by omega), schedule_getD h (show t - 8 < 80 by omega),
      schedule_getD h (show t - 14 < 80 by omega), schedule_getD h (show t - 16 < 80 by omega), hrec,
      show 79 - (t - 3) = 79 - t + 3 by omega, show 79 - (t - 8) = 79 - t + 8 by omega,
      show 79 - (t - 14) = 79 - t + 14 by omega, show 79 - (t - 16) = 79 - t + 16 by omega]
    rfl

/-! ### The padding -/

/-- The parts of the padded tail (R170). -/
theorem tail_length (c : Sha1Ctx) : c.tail.length = c.buf.length + 1 + padZeros c.buf.length + 8 := by
  simp only [Sha1Ctx.tail, List.length_append, List.length_singleton, zeros_length, be64Bytes_length]

/-- Settles O22: the tail is cut at the ends of its four parts. -/
theorem paddingFillsOneOrTwoBlocks : Obligations.PaddingFillsOneOrTwoBlocks := by
  intro c hbuf _
  have hlen := tail_length c
  have hpad : padZeros c.buf.length = (119 - c.buf.length) % 64 := rfl
  refine ⟨fun _ => by omega, fun _ => by omega, ?begins, fun j hge hlt => ?zeros, ?ends⟩
  case begins =>
    rw [Sha1Ctx.tail, List.append_assoc]
    exact List.take_left' (by rw [List.length_append, List.length_singleton])
  case zeros =>
    have hhead : (c.buf ++ [0x80#8]).length = c.buf.length + 1 := by rw [List.length_append, List.length_singleton]
    rw [Sha1Ctx.tail, List.getElem?_append_left (by rw [List.length_append, zeros_length]; omega),
      List.getElem?_append_right (by omega), hhead]
    exact List.getElem?_replicate_of_lt (by omega)
  case ends =>
    rw [← be64Bytes_eq_digits, hlen, Nat.add_sub_cancel]
    exact List.drop_left' (by simp only [List.length_append, List.length_singleton, zeros_length])

/-! ### Streaming and whole blocks -/

/-- Hashing one part after the other (R170). -/
theorem compressBlocks_add (a b : Nat) (h : Hash) (bs : List Byte) :
    compressBlocks (a + b) h bs = compressBlocks b (compressBlocks a h bs) (bs.drop (64 * a)) := by
  induction a generalizing h bs with
  | zero => rw [Nat.zero_add]; rfl
  | succ a ih =>
    rw [Nat.succ_add, compressBlocks, ih, List.drop_drop, compressBlocks, Nat.mul_succ, Nat.add_comm 64]

/-- Only the bytes of the blocks are hashed. -/
theorem compressBlocks_append {n : Nat} {bs : List Byte} (h : Hash) (hlen : 64 * n ≤ bs.length) (ys : List Byte) :
    compressBlocks n h (bs ++ ys) = compressBlocks n h bs := by
  induction n generalizing h bs with
  | zero => rfl
  | succ n ih =>
    rw [compressBlocks, compressBlocks, List.take_append_of_le_length (by omega),
      List.drop_append_of_le_length (by omega), ih _ (by rw [List.length_drop]; omega)]

/-- The context after a message: its whole blocks compressed, the rest buffered (R163). -/
def blockwiseCtx (m : List Byte) : Sha1Ctx :=
  { h := compressBlocks (m.length / 64) sha1IV m, buf := m.drop (64 * (m.length / 64)), cnt := m.length }

/-- One more byte absorbed is the message one byte longer. -/
theorem blockwiseCtx_absorb (m : List Byte) (b : Byte) : (blockwiseCtx m).absorb b = blockwiseCtx (m ++ [b]) := by
  have hlen : (m ++ [b]).length = m.length + 1 := by rw [List.length_append, List.length_singleton]
  have hbuf : (m.drop (64 * (m.length / 64))).length = m.length % 64 := by rw [List.length_drop]; omega
  have hle : 64 * (m.length / 64) ≤ m.length := Nat.mul_div_le _ _
  have hdrop : (m ++ [b]).drop (64 * (m.length / 64)) = m.drop (64 * (m.length / 64)) ++ [b] :=
    List.drop_append_of_le_length hle
  unfold Sha1Ctx.absorb blockwiseCtx
  rw [hbuf, hlen]
  split_ifs with hfull
  · have hdiv : (m.length + 1) / 64 = m.length / 64 + 1 := by omega
    have hend : (m ++ [b]).drop (64 * (m.length / 64 + 1)) = [] := List.drop_of_length_le (by omega)
    have hblock : (m.drop (64 * (m.length / 64)) ++ [b]).take 64 = m.drop (64 * (m.length / 64)) ++ [b] :=
      List.take_of_length_le (by rw [List.length_append, hbuf, List.length_singleton]; omega)
    rw [hdiv, hend, compressBlocks_add, compressBlocks_append _ hle, hdrop, compressBlocks, hblock]
    rfl
  · have hdiv : (m.length + 1) / 64 = m.length / 64 := by omega
    rw [hdiv, hdrop, compressBlocks_append _ hle]

theorem absorbAll_init_eq_blockwiseCtx (m : List Byte) : Sha1Ctx.init.absorbAll m = blockwiseCtx m := by
  induction m using List.reverseRecOn with
  | nil => rfl
  | append_singleton m b ih => rw [absorbAll_append, ih, absorbAll_cons, absorbAll_nil, blockwiseCtx_absorb]

/-- The padded message is its whole blocks, then the tail of its context (R170). -/
theorem sha1Pad_eq (m : List Byte) : sha1Pad m = m.take (64 * (m.length / 64)) ++ (blockwiseCtx m).tail := by
  have hbuf : (m.drop (64 * (m.length / 64))).length = m.length % 64 := by rw [List.length_drop]; omega
  show m ++ [0x80#8] ++ zeros ((119 - m.length % 64) % 64) ++ be64Bytes (8 * m.length) =
    m.take (64 * (m.length / 64)) ++
      (m.drop (64 * (m.length / 64)) ++ [0x80#8] ++ zeros (padZeros (m.drop (64 * (m.length / 64))).length) ++
        be64Bytes (8 * m.length))
  rw [hbuf, ← List.append_assoc, ← List.append_assoc, ← List.append_assoc, List.take_append_drop]
  rfl

/-- SHA-1 of a message is the hash of its padded blocks (R173). -/
theorem sha1_eq_compressBlocks (m : List Byte) :
    sha1 m = (compressBlocks ((sha1Pad m).length / 64) sha1IV (sha1Pad m)).bytes := by
  have htake : (m.take (64 * (m.length / 64))).length = 64 * (m.length / 64) := by rw [List.length_take]; omega
  have hcount : (sha1Pad m).length / 64 = m.length / 64 + (blockwiseCtx m).tail.length / 64 := by
    rw [sha1Pad_eq, List.length_append, htake]; omega
  have hstart : compressBlocks (m.length / 64) sha1IV (sha1Pad m) = (blockwiseCtx m).h := by
    rw [sha1Pad_eq, compressBlocks_append _ (by omega), ← compressBlocks_append _ (by omega) (m.drop (64 * (m.length / 64))),
      List.take_append_drop]
    rfl
  have hrest : (sha1Pad m).drop (64 * (m.length / 64)) = (blockwiseCtx m).tail := by
    rw [sha1Pad_eq]; exact List.drop_left' htake
  rw [sha1, absorbAll_init_eq_blockwiseCtx, hcount, compressBlocks_add, hstart, hrest]
  rfl

/-- Settles O23: the first clause by induction on the message from its end, the second by cutting the padded message at its
whole blocks. -/
theorem streamingHashIsBlockwiseHash : Obligations.StreamingHashIsBlockwiseHash :=
  fun m => ⟨absorbAll_init_eq_blockwiseCtx m, sha1_eq_compressBlocks m⟩

end Sys2Proof.Machine
end

section
/-! PROOFS. The host's reference functions (00_scope R12 to R17), and which lengths the Base32 modes accept (41_base32 R128). -/

namespace Sys2Proof.Machine

/-! ### The time step -/

/-- Settles O59: a time is 30 times its counter, and less than 30 seconds beyond. -/
theorem counterStaysWithinItsStep : Obligations.CounterStaysWithinItsStep := by
  intro t
  unfold secondsUntilNextStep timeCounter
  refine ⟨by omega, by omega, fun k hk => by omega, by omega⟩

/-! ### The length rule -/

/-- Settles O17: the table of R128 in numbers, for the leftover 5n mod 8. -/
theorem legacyAcceptsWholeNibblePairs : Obligations.LegacyAcceptsWholeNibblePairs := by
  intro n
  have hstrict : lenOk .strict (5 * n % 8) = true ↔ 5 * n % 8 = 0 := by simp [lenOk_eq_true_iff]
  have hlegacy : lenOk .legacy (5 * n % 8) = true ↔ 5 * n % 8 < 4 := by simp [lenOk_eq_true_iff]
  rw [hstrict, hlegacy]
  obtain ⟨q, r, hr, rfl⟩ : ∃ q r, r < 8 ∧ n = 8 * q + r := ⟨n / 8, n % 8, by omega, by omega⟩
  refine ⟨by omega, ?_, ?_, ?_, rfl⟩ <;> interval_cases r <;> omega

/-! ### The truncation -/

/-- `BE32` sets its four bytes side by side (R7). -/
theorem be32_eq_append (a b c d : Byte) : be32 a b c d = a ++ b ++ c ++ d := by
  apply BitVec.eq_of_getLsbD_eq
  intro i hi
  simp only [be32, BitVec.getLsbD_or, BitVec.getLsbD_shiftLeft, BitVec.getLsbD_setWidth, BitVec.getLsbD_append]
  interval_cases i <;> simp

theorem toNat_append_byte {n : Nat} (x : BitVec n) (y : Byte) : (x ++ y).toNat = x.toNat * 2 ^ 8 + y.toNat := by
  rw [BitVec.toNat_append, ← Nat.shiftLeft_add_eq_or_of_lt y.isLt, Nat.shiftLeft_eq]

/-- `BE32` in numbers (R7). -/
theorem be32_toNat (a b c d : Byte) :
    (be32 a b c d).toNat = a.toNat * 2 ^ 24 + b.toNat * 2 ^ 16 + c.toNat * 2 ^ 8 + d.toNat := by
  rw [be32_eq_append]
  refine (toNat_append_byte (a ++ b ++ c) d).trans ?_
  rw [toNat_append_byte, toNat_append_byte]
  omega

/-- The offset is the last byte modulo 16 (R14). -/
theorem truncOffset_eq (d : List Byte) : truncOffset d = (d.getD 19 0).toNat % 16 := by
  rw [truncOffset, BitVec.toNat_and]
  exact Nat.and_two_pow_sub_one_eq_mod _ 4

/-- The truncated value, in numbers (R15). -/
theorem truncatedValue_eq (d : List Byte) :
    truncatedValue d =
      ((d.getD (truncOffset d) 0).toNat % 128) * 2 ^ 24 + (d.getD (truncOffset d + 1) 0).toNat * 2 ^ 16 +
        (d.getD (truncOffset d + 2) 0).toNat * 2 ^ 8 + (d.getD (truncOffset d + 3) 0).toNat := by
  have hmask : ∀ w : Word, (w &&& 0x7FFFFFFF).toNat = w.toNat % 2 ^ 31 := fun w => by
    rw [BitVec.toNat_and]; exact Nat.and_two_pow_sub_one_eq_mod _ 31
  have h1 := (d.getD (truncOffset d + 1) 0).isLt
  have h2 := (d.getD (truncOffset d + 2) 0).isLt
  have h3 := (d.getD (truncOffset d + 3) 0).isLt
  simp only [truncatedValue, hmask, be32_toNat]
  omega

/-! ### The code as a string -/

/-- The ten digits. -/
theorem char_ofNat_digit {r : Nat} (h : r < 10) :
    '0' ≤ Char.ofNat (0x30 + r) ∧ Char.ofNat (0x30 + r) ≤ '9' ∧ (Char.ofNat (0x30 + r)).toNat - 0x30 = r := by
  interval_cases r <;> decide

theorem decimalDigits_length (k n : Nat) : (decimalDigits k n).length = k := by
  induction k generalizing n with
  | zero => rfl
  | succ k ih => rw [decimalDigits, List.length_append, ih, List.length_singleton]

theorem mem_decimalDigits {k n : Nat} {ch : Char} (h : ch ∈ decimalDigits k n) : '0' ≤ ch ∧ ch ≤ '9' := by
  induction k generalizing n with
  | zero => simp [decimalDigits] at h
  | succ k ih =>
    rw [decimalDigits, List.mem_append, List.mem_singleton] at h
    rcases h with h | rfl
    · exact ih h
    · obtain ⟨hge, hle, _⟩ := char_ofNat_digit (Nat.mod_lt n (show 10 > 0 by decide))
      exact ⟨hge, hle⟩

/-- The digits spell the number modulo a power of ten. -/
theorem decimalDigits_value (k n : Nat) :
    (decimalDigits k n).foldl (fun n ch => 10 * n + (ch.toNat - 0x30)) 0 = n % 10 ^ k := by
  induction k generalizing n with
  | zero => rw [Nat.pow_zero, Nat.mod_one]; rfl
  | succ k ih =>
    obtain ⟨_, _, hdigit⟩ := char_ofNat_digit (Nat.mod_lt n (show 10 > 0 by decide))
    rw [decimalDigits, List.foldl_append, ih, List.foldl_cons, List.foldl_nil, hdigit, Nat.pow_succ', Nat.mod_mul]
    omega

/-- Settles O58: the offset is below 16, the value is `truncatedValue_eq`, and the code its six digits. -/
theorem truncationStaysInsideTheDigest : Obligations.TruncationStaysInsideTheDigest := by
  intro d hlen
  have hoff := truncOffset_eq d
  refine ⟨hoff, by omega, truncatedValue_eq d, decimalDigits_length 6 _, fun ch hch => mem_decimalDigits hch, ?_⟩
  rw [otpString, decimalDigits_value, otpCode]
  exact Nat.mod_mod _ _

end Sys2Proof.Machine
end

section
/-! PROOFS. The register window: what the offsets read (10_state R23 to R33), the fields of STATUS (R27), and the host's
accesses (20_memory R61 to R65, 70_reset R240). -/

namespace Sys2Proof.Machine

/-! ### STATUS field by field -/

/-- A slice of STATUS, the widths of its fields written out (R27). -/
theorem statusWord_slice (s : State) (start len : Nat) :
    s.statusWord.extractLsb' start len =
      BitVec.extractLsb' (n := 8 + 8 + 5 + 3 + 1 + 1 + 2 + 1 + 1 + 1 + 1) start len
        (s.errOpc ++ s.errCode.byte ++ 0#5 ++ BitVec.ofNat 3 s.nbits ++ BitVec.ofBool s.klong ++ BitVec.ofBool s.hact ++
          s.ksph.bits ++ BitVec.ofBool s.err ++ BitVec.ofBool s.dvalid ++ BitVec.ofBool s.kvalid ++
          BitVec.ofBool s.busy) := rfl

/-- The fields of STATUS that are wider than one bit (R27). -/
theorem statusWord_fields (s : State) :
    s.statusWord.extractLsb' 4 2 = s.ksph.bits ∧ s.statusWord.extractLsb' 8 3 = BitVec.ofNat 3 s.nbits ∧
    s.statusWord.extractLsb' 11 5 = 0#5 ∧ s.statusWord.extractLsb' 16 8 = s.errCode.byte ∧
    s.statusWord.extractLsb' 24 8 = s.errOpc := by
  simp (disch := decide) only [statusWord_slice, BitVec.extractLsb'_append_eq_of_le,
    BitVec.extractLsb'_append_eq_of_add_le, Nat.reduceSub, BitVec.extractLsb'_eq_self, and_self]

/-- The flags of STATUS (R27). -/
theorem statusWord_flags (s : State) :
    s.statusWord.getLsbD 0 = s.busy ∧ s.statusWord.getLsbD 1 = s.kvalid ∧ s.statusWord.getLsbD 2 = s.dvalid ∧
    s.statusWord.getLsbD 3 = s.err ∧ s.statusWord.getLsbD 6 = s.hact ∧ s.statusWord.getLsbD 7 = s.klong := by
  simp only [State.statusWord, BitVec.getLsbD_append]
  simp

/-- Settles O38: the fields and flags of STATUS, with the codes of the two enumerations. -/
theorem statusShowsItsFields : Obligations.StatusShowsItsFields := by
  intro s
  obtain ⟨hksph, hnbits, hzero, hcode, hopc⟩ := statusWord_fields s
  obtain ⟨hbusy, hkvalid, hdvalid, herr, hhact, hklong⟩ := statusWord_flags s
  rw [hksph, hcode]
  refine ⟨hbusy, hkvalid, hdvalid, herr, ?_, ?_, ?_, ?_, hhact, hklong, hnbits, hzero, ?_, ?_, ?_, ?_, ?_, ?_, ?_, ?_, hopc⟩
  all_goals
    intro h
    rw [h]
    rfl

/-- Settles O37: every offset reads its register, and CTRL is looked up. -/
theorem registerMapReads : Obligations.RegisterMapReads := by
  intro s
  have hctrl : (readReg 0x04 s).toNat = 4 * s.ctrl.strip.toNat + s.ctrl.mode.bits.toNat := by
    rw [readReg_ctrl]
    cases s.ctrl with | mk m st => cases m <;> cases st <;> rfl
  rw [hctrl]
  refine ⟨rfl, rfl, rfl, ?strict, ?legacy, ?rfc, rfl, rfl, rfl, BitVec.toNat_ofNat .., rfl, rfl, rfl, rfl, rfl, rfl, rfl, rfl⟩
  all_goals
    intro h
    rw [h]
    rfl

/-! ### The host's accesses -/

/-- When the host moves, an admitted read notes the register's value (R62, R65). -/
theorem step_read {s : State} {off : Nat} {rest : List Input} (h : HostMoves s) (h4 : off % 4 = 0) (h64 : off < 64)
    (hi : s.inputs = .read (Config.base + off) 4 :: rest) :
    step s = .next (noteRead off (countDown { s with inputs := rest })) := by
  rw [step_of_hostMoves h hi]
  simp only [inputStep, h.1, Bool.false_eq_true, if_false]
  exact access_at h4 h64 _ _

/-- When the host moves, an admitted write acts on its register (R63). -/
theorem step_write {s : State} {off : Nat} {v : Word} {rest : List Input} (h : HostMoves s) (h4 : off % 4 = 0)
    (h64 : off < 64) (hi : s.inputs = .write (Config.base + off) 4 v :: rest) :
    step s = .next (writeReg off v (countDown { s with inputs := rest })) := by
  rw [step_of_hostMoves h hi]
  simp only [inputStep, h.1, Bool.false_eq_true, if_false]
  exact access_at h4 h64 _ _

/-- No register shows the inputs to come or the delay of a command in flight. -/
theorem readReg_countDown (off : Nat) (s : State) (rest : List Input) :
    readReg off (countDown { s with inputs := rest }) = readReg off s := by
  have hstatus : (countDown { s with inputs := rest }).statusWord = s.statusWord :=
    statusWord_congr Option.isSome_map rfl rfl rfl rfl rfl rfl rfl rfl rfl
  unfold readReg
  rw [hstatus]
  rfl

/-- Settles O36: the step is `step_read`, and the value noted is the register's before the step. -/
theorem readReturnsTheRegister : Obligations.ReadReturnsTheRegister := by
  intro s off rest h h4 h64 hi
  rw [step_read h h4 h64 hi, noteRead, readReg_countDown]
  rfl

/-- Settles O40: the step is `step_write`; of the offsets left only those of DATA0 and DATA1 store. -/
theorem writesReachOnlyTheWritableRegisters : Obligations.WritesReachOnlyTheWritableRegisters := by
  intro s off v rest h h4 h64 hctrl hcmd hi
  rw [step_write h h4 h64 hi]
  unfold writeReg
  split
  · exact absurd rfl hctrl
  · exact absurd rfl hcmd
  · rfl
  · rfl
  · rename_i h0 h1
    rw [if_neg h0, if_neg h1]
    rfl

/-- An access outside the window is refused (R61). -/
theorem access_outside {addr : Nat} (h : addr < Config.base ∨ Config.base + 64 ≤ addr) (bytes : Nat)
    (act : Nat → State → State) (s : State) : access addr bytes act s = .refused .outsideWindow := by
  have hw : inWindow addr = false := decide_eq_false (by rintro ⟨hge, hlt⟩; unfold Config.windowBytes at hlt; omega)
  simp [access, hw]

/-- An access inside the window that is narrow, wide or misaligned is a fault (R64). -/
theorem access_not_aligned {addr bytes : Nat} (hge : Config.base ≤ addr) (hlt : addr < Config.base + 64)
    (h : bytes ≠ 4 ∨ addr % 4 ≠ 0) (act : Nat → State → State) (s : State) :
    access addr bytes act s = .fault .hostStuck := by
  have hw : inWindow addr = true := decide_eq_true ⟨hge, hlt⟩
  have ha : aligned32 addr bytes = false := decide_eq_false (by rintro ⟨h4, ha⟩; exact h.elim (· h4) (· ha))
  simp [access, hw, ha]

/-- When the host moves, an access is what `access` makes of it, in some state. -/
theorem step_eq_access {s : State} {addr bytes : Nat} {v : Word} {rest : List Input} (h : HostMoves s)
    (hi : s.inputs = .read addr bytes :: rest ∨ s.inputs = .write addr bytes v :: rest) :
    ∃ (act : Nat → State → State) (u : State), step s = access addr bytes act u := by
  rcases hi with hi | hi <;>
    exact ⟨_, _, by rw [step_of_hostMoves h hi]; simp only [inputStep, h.1, Bool.false_eq_true, if_false]; rfl⟩

/-- While reset is asserted the next input moves. -/
theorem step_of_inReset {s : State} {inp : Input} {rest : List Input} (hr : s.inReset = true)
    (hi : s.inputs = inp :: rest) : step s = inputStep inp { s with inputs := rest } := by
  rcases step_cases s with ⟨hnil, _, _⟩ | ⟨_, hfalse, _⟩ | ⟨_, _, _, hfalse, _⟩ | ⟨_, _, _, hin, heq⟩
  · simp [hi] at hnil
  · simp [hr] at hfalse
  · simp [hr] at hfalse
  · rw [hi] at hin
    obtain ⟨rfl, rfl⟩ := List.cons.inj hin
    exact heq

/-- An access while reset is asserted is refused (R240). -/
theorem inputStep_access_inReset {inp : Input} {s : State} (hr : s.inReset = true) (ha : IsAccess inp = true) :
    inputStep inp s = .refused .accessInReset := by
  cases inp with
  | read | write | poll => simp only [inputStep, hr, if_true]
  | assertReset | releaseReset => simp [IsAccess] at ha

/-- Settles O42: out of reset the step is an access that is refused or a fault, in reset it is refused. -/
theorem accessesNotAdmittedStop : Obligations.AccessesNotAdmittedStop := by
  refine ⟨fun s addr bytes v rest h hi => ?_, fun s inp rest hr hi ha => ?_⟩
  · obtain ⟨act, u, heq⟩ := step_eq_access h hi
    rw [heq]
    exact ⟨fun hout => access_outside hout bytes act u, fun hge hlt hbad => access_not_aligned hge hlt hbad act u⟩
  · rw [step_of_inReset hr hi]
    exact inputStep_access_inReset hr ha

end Sys2Proof.Machine
end

section
/-! PROOFS. Steps, completion and reset (70_reset): admitted inputs never stop the machine (60_exceptions R210), reset takes and
holds the reset values (R240), a command in flight is isolated (R247, R248) and completes (R254, R255), and a command statement
is never dropped (30_encoding R89). -/

namespace Sys2Proof.Machine

/-! ### Admitted inputs -/

/-- Out of reset every admitted input answers a next state (20_memory R61, R64). -/
theorem inputStep_is_next {inp : Input} (h : Admitted inp = true) {s : State} (hr : s.inReset = false) :
    ∃ t, inputStep inp s = .next t := by
  have haccess : ∀ (addr bytes : Nat) (act : Nat → State → State),
      (inWindow addr && aligned32 addr bytes) = true → ∃ t, access addr bytes act s = .next t := by
    intro addr bytes act hok
    obtain ⟨hw, ha⟩ := Bool.and_eq_true_iff.1 hok
    exact ⟨act (addr - Config.base) s, by simp [access, hw, ha]⟩
  cases inp with
  | assertReset | releaseReset => exact ⟨_, rfl⟩
  | read addr bytes =>
    obtain ⟨t, ht⟩ := haccess addr bytes noteRead h
    exact ⟨t, by simp only [inputStep, hr, Bool.false_eq_true, if_false, ht]⟩
  | write addr bytes v =>
    obtain ⟨t, ht⟩ := haccess addr bytes (fun off => writeReg off v) h
    exact ⟨t, by simp only [inputStep, hr, Bool.false_eq_true, if_false, ht]⟩
  | poll =>
    simp only [inputStep, hr, Bool.false_eq_true, if_false]
    split_ifs <;> exact ⟨_, rfl⟩

/-- While reset is asserted, what is no access answers a next state (R240). -/
theorem inputStep_is_next_of_not_access {inp : Input} (h : IsAccess inp = false) (s : State) :
    ∃ t, inputStep inp s = .next t := by
  cases inp with
  | assertReset | releaseReset => exact ⟨_, rfl⟩
  | read | write | poll => simp [IsAccess] at h

/-- Settles O47: in each case of `step_cases` what runs answers a next state. -/
theorem admittedStepsNeverStop : Obligations.AdmittedStepsNeverStop := by
  intro s hadmitted hreset
  rcases step_cases s with ⟨_, _, heq⟩ | ⟨p, _, _, _, heq⟩ | ⟨p, inp, rest, hr, _, _, hi, heq⟩ | ⟨inp, rest, _, hi, heq⟩ <;>
    rw [heq]
  · exact ⟨s, rfl⟩
  · obtain ⟨t, ht⟩ := complete_is_next p s
    exact ⟨_, ht⟩
  · exact inputStep_is_next (hadmitted hr inp (by rw [hi]; rfl)) hr
  · rcases Bool.eq_false_or_eq_true s.inReset with hr | hr
    · exact inputStep_is_next_of_not_access (hreset hr inp (by rw [hi]; rfl)) _
    · exact inputStep_is_next (hadmitted hr inp (by rw [hi]; rfl)) hr

/-- Settles O44: the step is the completion, and the completion of a legal word is `exec`, then PEND cleared. -/
theorem stepRunsThePendingCommand : Obligations.StepRunsThePendingCommand := by
  intro s t p i hmove hdecode ht
  rw [step_of_engineMoves hmove]
  simp only [complete, hdecode, ht, retireOutcome]
  rfl

/-! ### What no command touches -/

/-- No command changes CTRL, DATA0, DATA1 or PEND, nor what is outside the block (10_state R25, R29). -/
theorem exec_sameConfig_sameWorld {i : Instr} {s t : State} (h : exec i s = .next t) : SameConfig s t ∧ SameWorld s t := by
  rcases exec_frame h with hsession | rfl | ⟨_, _, rfl⟩ | ⟨_, _, _, rfl⟩ | hhmac | rfl
  · obtain ⟨hconfig, _, _, _, hworld⟩ := hsession
    exact ⟨hconfig, hworld⟩
  · cases h
    obtain ⟨hconfig, _, _, _, _, hworld⟩ := softReset_spec s
    exact ⟨hconfig, hworld⟩
  · obtain ⟨_, _, _, _, _, _, _, _, hconfig, _, hworld⟩ := commit_committed s
    exact ⟨hconfig, hworld⟩
  · obtain ⟨_, _, _, _, _, _, _, _, hconfig, _, hworld⟩ := commit_committed s
    exact ⟨hconfig, hworld⟩
  · obtain ⟨hconfig, _, _, _, hworld⟩ := exec_hmac_frame h hhmac
    exact ⟨hconfig, hworld⟩
  · obtain ⟨hconfig, _, _, hworld, _⟩ := exec_hfinish_frame h
    exact ⟨hconfig, hworld⟩

/-- Settles O31: the frames of the kinds of commands, gathered in `exec_sameConfig_sameWorld`. -/
theorem noCommandChangesConfiguration : Obligations.NoCommandChangesConfiguration :=
  fun _ _ _ h => exec_sameConfig_sameWorld h

/-- A completion clears PEND and changes neither the live registers nor what is outside the block (R247). -/
theorem complete_frame {p : Pending} {s t : State} (h : complete p s = .next t) :
    t.pend = none ∧ t.ctrl = s.ctrl ∧ t.data0 = s.data0 ∧ t.data1 = s.data1 ∧ SameWorld s t := by
  rcases complete_cases h with ⟨i, u, _, hu, rfl⟩ | ⟨_, rfl⟩
  · obtain ⟨⟨hctrl, hdata0, hdata1, _⟩, hworld⟩ := exec_sameConfig_sameWorld hu
    exact ⟨rfl, hctrl, hdata0, hdata1, hworld⟩
  · obtain ⟨⟨hctrl, hdata0, hdata1, _⟩, _, _, _, hworld⟩ := recordError_only .illegal (opcField p.word) s
    exact ⟨rfl, hctrl, hdata0, hdata1, hworld⟩

/-! ### The reset input -/

/-- Reset values do not depend on the level of the input or on what is outside the block. -/
theorem AtResetValues.of_world {s : State} (h : AtResetValues s) (r : Bool) (ins : List Input) :
    AtResetValues { s with inReset := r, inputs := ins } :=
  ⟨h.ctrl, h.data, h.idle, h.error, h.staging, h.key, h.hmac, h.digest⟩

/-- When the host moves or reset is asserted, asserting reset resets the block at once (R240). -/
theorem step_assertReset {s : State} {rest : List Input} (h : HostMoves s ∨ s.inReset = true)
    (hi : s.inputs = .assertReset :: rest) :
    ∃ u : State, step s = .next (resetBlock u) ∧ u.inReset = true ∧ u.inputs = rest ∧ u.reads = s.reads := by
  rcases h with h | hr
  · exact ⟨_, step_of_hostMoves h hi, rfl, rfl, rfl⟩
  · exact ⟨_, step_of_inReset hr hi, rfl, rfl, rfl⟩

/-- Settles O49: asserting is `resetBlock`, releasing changes the level only. -/
theorem resetInputTakesResetValues : Obligations.ResetInputTakesResetValues := by
  refine ⟨fun s rest h hi => ?asserted, fun s rest hr hi => step_of_inReset hr hi, fun s rest hr hvalues hi => ?released⟩
  case asserted =>
    obtain ⟨u, heq, hr, hin, hreads⟩ := step_assertReset h hi
    obtain ⟨hvalues, hr', hin', hreads'⟩ := resetBlock_spec u
    exact ⟨_, heq, hvalues, hr'.trans hr, hin'.trans hin, hreads'.trans hreads⟩
  case released =>
    have hidle : s.pend = none := hvalues.idle
    refine ⟨_, step_of_inReset hr hi, hvalues.of_world false rest, ?_, ⟨rfl, fun p hp => ?_⟩, rfl, rfl⟩
    · show s.pend.isSome = false
      rw [hidle]; rfl
    · have hp' : s.pend = some p := hp
      rw [hidle] at hp'
      cases hp'

/-- A register write leaves the level of reset as it was. -/
theorem writeReg_inReset (off : Nat) (v : Word) (s : State) : (writeReg off v s).inReset = s.inReset := by
  rcases writeReg_cases off v s with h | h | h | h | h <;> rw [h]
  rcases writeCmd_cases v s with ⟨_, d, h⟩ | ⟨_, h⟩ <;> rw [h]
  exact recordError_inReset _ _ s

/-- An input after which reset is asserted asserted it, and the block has its reset values (R240). -/
theorem inputStep_atResetValues {inp : Input} {s t : State} (h : inputStep inp s = .next t) (ht : t.inReset = true) :
    AtResetValues t := by
  rcases inputStep_cases h with ⟨_, rfl⟩ | ⟨_, rfl⟩ | ⟨hr, off, rfl⟩ | ⟨hr, rfl⟩ | ⟨hr, off, v, rfl⟩
  · exact (resetBlock_spec _).1
  · cases ht
  · exact absurd (hr.symm.trans ht) (by decide)
  · exact absurd (hr.symm.trans ht) (by decide)
  · rw [writeReg_inReset] at ht
    exact absurd (hr.symm.trans ht) (by decide)

/-- Settles O50: a step that ends in reset idles in it or asserts it. -/
theorem resetHoldsItsValues : Obligations.ResetHoldsItsValues := by
  intro s t hs h ht
  rcases step_cases s with ⟨_, _, heq⟩ | ⟨p, hr, _, _, heq⟩ | ⟨p, inp, rest, _, _, _, _, heq⟩ | ⟨inp, rest, _, _, heq⟩ <;>
    rw [heq] at h
  · cases h
    exact hs ht
  · obtain ⟨_, _, _, _, hworld, _, _⟩ := complete_frame h
    exact absurd (hr.symm.trans (hworld.symm.trans ht)) (by decide)
  · exact inputStep_atResetValues h ht
  · exact inputStep_atResetValues h ht

/-! ### A host step while a command is in flight -/

/-- A register write while a command is in flight leaves the session, the key, the computation, the digest and the command as
they were (R248); the list of inputs and the level of reset too. -/
theorem writeReg_inFlight (off : Nat) (v : Word) {s : State} (hbusy : s.pend ≠ none) :
    let t := writeReg off v s
    t.pend = s.pend ∧ t.inReset = s.inReset ∧ t.inputs = s.inputs ∧
      SameSession s t ∧ SameKey s t ∧ SameHmac s t ∧ SameDigest s t := by
  rcases writeReg_cases off v s with h | h | h | h | h <;> rw [h]
  case inr.inl =>
    rcases writeCmd_cases v s with ⟨hidle, _⟩ | ⟨_, h⟩
    · exact absurd hidle hbusy
    · rw [h]
      obtain ⟨⟨_, _, _, hpend⟩, hkey, hhmac, hdigest, hreset, hinputs, _⟩ := recordError_only .busy (opcField v) s
      exact ⟨hpend, hreset, hinputs, recordError_sameSession .busy _ s, hkey, hhmac, hdigest⟩
  all_goals
    exact ⟨rfl, rfl, rfl, sameSession_refl s, ⟨rfl, rfl, rfl⟩, ⟨rfl, rfl, rfl⟩, ⟨rfl, rfl⟩⟩

/-- What the block shows of its state is the same, but for the error record and the live registers. -/
def SameButErrorAndLive (s t : State) : Prop := SameSession s t ∧ SameKey s t ∧ SameHmac s t ∧ SameDigest s t

theorem sameButErrorAndLive_refl (s : State) : SameButErrorAndLive s s :=
  ⟨sameSession_refl s, ⟨rfl, rfl, rfl⟩, ⟨rfl, rfl, rfl⟩, ⟨rfl, rfl⟩⟩

theorem sameButErrorAndLive_trans {a b c : State} (h : SameButErrorAndLive a b) (k : SameButErrorAndLive b c) :
    SameButErrorAndLive a c := by
  simp only [SameButErrorAndLive, SameSession, SameStagedBytes, SameBits, SameKey, SameHmac, SameDigest] at *
  simp [k, h]

/-- A host step short of a reset, a command being in flight: it comes one step nearer to its completion; a POLL stays to read
again (R90, R247, R248). -/
theorem step_inFlight {s t : State} {p : Pending} {inp : Input} {rest : List Input} (hr : s.inReset = false)
    (hp : s.pend = some p) (hdelay : p.delay ≠ 0) (hi : s.inputs = inp :: rest) (hne : inp ≠ .assertReset)
    (h : step s = .next t) :
    t.pend = some { p with delay := p.delay - 1 } ∧ t.inReset = false ∧ (t.inputs = rest ∨ t.inputs = .poll :: rest) ∧
      SameButErrorAndLive s t := by
  have hmoves : HostMoves s := ⟨hr, fun q hq => by cases hp.symm.trans hq; exact hdelay⟩
  have hpend : (countDown { s with inputs := rest }).pend = some { p with delay := p.delay - 1 } := by
    show s.pend.map _ = _
    rw [hp]; rfl
  have hsame : SameButErrorAndLive s (countDown { s with inputs := rest }) := sameButErrorAndLive_refl s
  rw [step_of_hostMoves hmoves hi] at h
  rcases inputStep_cases h with ⟨hreset, _⟩ | ⟨_, rfl⟩ | ⟨_, off, rfl⟩ | ⟨_, rfl⟩ | ⟨_, off, v, rfl⟩
  · exact absurd hreset hne
  · exact ⟨hpend, rfl, .inl rfl, hsame⟩
  · exact ⟨hpend, hr, .inl rfl, hsame⟩
  · exact ⟨hpend, hr, .inr rfl, hsame⟩
  · obtain ⟨hpend', hr', hin', hsession, hkey, hhmac, hdigest⟩ :=
      writeReg_inFlight off v (s := countDown { s with inputs := rest }) (by rw [hpend]; exact Option.some_ne_none _)
    exact ⟨hpend'.trans hpend, hr'.trans hr, .inl hin', hsession, hkey, hhmac, hdigest⟩

/-- Bits [2:0] of STATUS (R27). -/
theorem statusWord_low_flags (s : State) :
    s.statusWord.extractLsb' 0 3 = BitVec.ofBool s.dvalid ++ BitVec.ofBool s.kvalid ++ BitVec.ofBool s.busy := by
  apply BitVec.eq_of_getLsbD_eq
  intro i hi
  simp only [State.statusWord, BitVec.getLsbD_extractLsb', BitVec.getLsbD_append]
  interval_cases i <;> simp

/-- Bits [15:4] of STATUS (R27). -/
theorem statusWord_session_fields (s : State) :
    s.statusWord.extractLsb' 4 12 =
      0#5 ++ BitVec.ofNat 3 s.nbits ++ BitVec.ofBool s.klong ++ BitVec.ofBool s.hact ++ s.ksph.bits := by
  apply BitVec.eq_of_getLsbD_eq
  intro i hi
  simp only [State.statusWord, BitVec.getLsbD_extractLsb', BitVec.getLsbD_append]
  interval_cases i <;> simp

/-- STATUS reads the same in all fields but ERR, ERRCODE and ERROPC (R27). -/
theorem statusWord_slices_congr {s t : State} (hb : t.busy = s.busy) (h : SameButErrorAndLive s t) :
    t.statusWord.extractLsb' 0 3 = s.statusWord.extractLsb' 0 3 ∧
      t.statusWord.extractLsb' 4 12 = s.statusWord.extractLsb' 4 12 := by
  obtain ⟨⟨hksph, ⟨_, hkcnt, _⟩, _, hnbits⟩, ⟨hkvalid, _, _⟩, ⟨hhact, _, _⟩, hdvalid, _⟩ := h
  have hklong : t.klong = s.klong := by rw [State.klong, hkcnt]; rfl
  rw [statusWord_low_flags, statusWord_low_flags, statusWord_session_fields, statusWord_session_fields, hdvalid, hkvalid,
    hb, hnbits, hklong, hhact, hksph]
  exact ⟨rfl, rfl⟩

/-- The offsets of ID, CMD, KLEN, MLEN, the digest and the reserved words read the same. -/
theorem readReg_congr {s t : State} (h : SameButErrorAndLive s t) {off : Nat}
    (hoff : off ∈ [0x00, 0x0C, 0x18, 0x1C, 0x20, 0x24, 0x28, 0x2C, 0x30, 0x34, 0x38, 0x3C]) :
    readReg off t = readReg off s := by
  obtain ⟨_, ⟨_, _, hklen⟩, ⟨_, _, hmcnt⟩, _, hdig⟩ := h
  have hmlen : t.mlen = s.mlen := by rw [State.mlen, hmcnt]; rfl
  simp only [List.mem_cons, List.not_mem_nil, or_false] at hoff
  rcases hoff with rfl | rfl | rfl | rfl | rfl | rfl | rfl | rfl | rfl | rfl | rfl | rfl <;>
    simp only [readReg, hklen, hmlen, hdig]

/-- Settles O43: `step_inFlight`, and what the registers read of what stays the same. -/
theorem onlyErrorAndLiveRegistersChangeInFlight : Obligations.OnlyErrorAndLiveRegistersChangeInFlight := by
  intro s t p inp rest hr hp hdelay hi hne h
  obtain ⟨hpend, _, _, hsame⟩ := step_inFlight hr hp hdelay hi hne h
  have hbusy : t.busy = true := by rw [State.busy, hpend]; rfl
  have hbusy' : t.busy = s.busy := by rw [hbusy, State.busy, hp]; rfl
  obtain ⟨hlow, hmiddle⟩ := statusWord_slices_congr hbusy' hsame
  obtain ⟨hsession, hkey, hhmac, hdigest⟩ := hsame
  exact ⟨hpend, hbusy, hsession, hkey, hhmac, hdigest, fun off hoff => readReg_congr ⟨hsession, hkey, hhmac, hdigest⟩ hoff,
    hlow, hmiddle⟩

/-! ### Runs -/

/-- A run that steps first. -/
theorem run_succ {n : Nat} {s t : State} (h : step s = .next t) :
    Host.Core.run Sys2Proof.core (n + 1) s = Host.Core.run Sys2Proof.core n t := by
  have hcore : Sys2Proof.core.step s = .next t := h
  simp only [Host.Core.run, hcore]

theorem run_one {s t : State} (h : step s = .next t) : Host.Core.run Sys2Proof.core 1 s = .next t := run_succ h

/-- A run that answers a next state stepped to one first. -/
theorem step_of_run_succ {n : Nat} {s t : State} (h : Host.Core.run Sys2Proof.core (n + 1) s = .next t) :
    ∃ u, step s = .next u ∧ Host.Core.run Sys2Proof.core n u = .next t := by
  cases hs : Sys2Proof.core.step s with
  | next u => exact ⟨u, hs, (run_succ hs).symm.trans h⟩
  | fault r => simp only [Host.Core.run, hs, reduceCtorEq] at h
  | refused r => simp only [Host.Core.run, hs, reduceCtorEq] at h

/-- Two runs, one after the other. -/
theorem run_add {m : Nat} (n : Nat) {s t : State} (h : Host.Core.run Sys2Proof.core m s = .next t) :
    Host.Core.run Sys2Proof.core (m + n) s = Host.Core.run Sys2Proof.core n t := by
  induction m generalizing s with
  | zero => cases h; rw [Nat.zero_add]
  | succ m ih =>
    obtain ⟨u, hu, hrun⟩ := step_of_run_succ h
    rw [Nat.succ_add, run_succ hu, ih hrun]

/-! ### Completion -/

/-- The state of a command in flight: the engine moves, or an input does and some delay is left. -/
theorem engineMoves_or_input {s : State} {p : Pending} (hr : s.inReset = false) (hp : s.pend = some p) :
    EngineMoves p s ∨ ∃ inp rest, s.inputs = inp :: rest ∧ p.delay ≠ 0 := by
  cases hi : s.inputs with
  | nil => exact .inl ⟨hr, hp, .inl hi⟩
  | cons inp rest =>
    by_cases hd : p.delay = 0
    · exact .inl ⟨hr, hp, .inr hd⟩
    · exact .inr ⟨inp, rest, rfl, hd⟩

/-- The inputs after a host step in flight are of those before it, or a POLL. -/
theorem forall_inputs_of_tail {P : Input → Prop} {inp : Input} {rest ins : List Input} (h : ∀ i ∈ inp :: rest, P i)
    (hpoll : P .poll) (hins : ins = rest ∨ ins = .poll :: rest) : ∀ i ∈ ins, P i := by
  rcases hins with rfl | rfl
  · exact fun i hi => h i (List.mem_cons_of_mem _ hi)
  · exact List.forall_mem_cons.2 ⟨hpoll, fun i hi => h i (List.mem_cons_of_mem _ hi)⟩

/-- A busy state out of reset reaches BUSY = 0 within one step more than the delay (R254, R255, R240). -/
theorem reaches_idle (d : Nat) {s : State} {p : Pending} (hd : p.delay = d) (hr : s.inReset = false) (hp : s.pend = some p)
    (hin : ∀ inp ∈ s.inputs, Admitted inp = true) :
    ∃ n t, n ≤ d + 1 ∧ Host.Core.run Sys2Proof.core n s = .next t ∧ t.busy = false := by
  induction d generalizing s p with
  | zero =>
    obtain ⟨t, ht⟩ := complete_is_next p s
    exact ⟨1, _, Nat.le_refl 1, run_one ((step_of_engineMoves ⟨hr, hp, .inr hd⟩).trans ht), rfl⟩
  | succ d ih =>
    rcases engineMoves_or_input hr hp with hmove | ⟨inp, rest, hi, hdelay⟩
    · obtain ⟨t, ht⟩ := complete_is_next p s
      exact ⟨1, _, by omega, run_one ((step_of_engineMoves hmove).trans ht), rfl⟩
    · have hmoves : HostMoves s := ⟨hr, fun q hq => by cases hp.symm.trans hq; exact hdelay⟩
      rw [hi] at hin
      by_cases hreset : inp = .assertReset
      · subst hreset
        obtain ⟨u, hu, _⟩ := step_assertReset (.inl hmoves) hi
        exact ⟨1, _, by omega, run_one hu, rfl⟩
      · obtain ⟨t, ht⟩ := inputStep_is_next (hin inp List.mem_cons_self)
          (s := { s with inputs := rest, pend := s.pend.map (fun p => { p with delay := p.delay - 1 }) }) hr
        have hstep := (step_of_hostMoves hmoves hi).trans ht
        obtain ⟨hpend, hr', hins, _⟩ := step_inFlight hr hp hdelay hi hreset hstep
        obtain ⟨n, u, hn, hrun, hidle⟩ := ih (p := { p with delay := p.delay - 1 }) (by rw [hd]; rfl) hr' hpend
          (forall_inputs_of_tail hin rfl hins)
        exact ⟨n + 1, u, by omega, (run_succ hstep).trans hrun, hidle⟩

/-- With no reset among the inputs, the same word with the same copies is due within the delay, and the block's side but for
the error record is as it was (R246, R247, R254). -/
theorem reaches_due (d : Nat) {s : State} {p : Pending} (hd : p.delay = d) (hr : s.inReset = false) (hp : s.pend = some p)
    (hin : ∀ inp ∈ s.inputs, Admitted inp = true ∧ inp ≠ .assertReset) :
    ∃ n u q, n ≤ d ∧ Host.Core.run Sys2Proof.core n s = .next u ∧ EngineMoves q u ∧ q.word = p.word ∧
      q.latch = p.latch ∧ SameButErrorAndLive s u := by
  induction d generalizing s p with
  | zero => exact ⟨0, s, p, Nat.le_refl 0, rfl, ⟨hr, hp, .inr hd⟩, rfl, rfl, sameButErrorAndLive_refl s⟩
  | succ d ih =>
    rcases engineMoves_or_input hr hp with hmove | ⟨inp, rest, hi, hdelay⟩
    · exact ⟨0, s, p, Nat.zero_le _, rfl, hmove, rfl, rfl, sameButErrorAndLive_refl s⟩
    · have hmoves : HostMoves s := ⟨hr, fun q hq => by cases hp.symm.trans hq; exact hdelay⟩
      rw [hi] at hin
      obtain ⟨hadmitted, hreset⟩ := hin inp List.mem_cons_self
      obtain ⟨t, ht⟩ := inputStep_is_next hadmitted
        (s := { s with inputs := rest, pend := s.pend.map (fun p => { p with delay := p.delay - 1 }) }) hr
      have hstep := (step_of_hostMoves hmoves hi).trans ht
      obtain ⟨hpend, hr', hins, hsame⟩ := step_inFlight hr hp hdelay hi hreset hstep
      obtain ⟨n, u, q, hn, hrun, hmove, hword, hlatch, hsame'⟩ := ih (p := { p with delay := p.delay - 1 })
        (by rw [hd]; rfl) hr' hpend (forall_inputs_of_tail hin ⟨rfl, nofun⟩ hins)
      exact ⟨n + 1, u, q, by omega, (run_succ hstep).trans hrun, hmove, hword, hlatch,
        sameButErrorAndLive_trans hsame hsame'⟩

/-- What a completion does, by the word it completes: its command's effect, or ILLEGAL (R85, R247). -/
theorem complete_effect (p : Pending) (u : State) :
    ∃ t, complete p u = .next t ∧
      (∀ i, decode p.word = .command i → ∃ v, exec i u = .next v ∧ t = { v with pend := none }) ∧
      ((∀ i, decode p.word ≠ .command i) → ErrorRecorded .illegal (opcField p.word) u t ∧ t.pend = none ∧
        SameSession u t ∧ SameKey u t ∧ SameHmac u t ∧ SameDigest u t) := by
  obtain ⟨t, ht⟩ := complete_is_next p u
  refine ⟨_, ht, fun i hi => ?_, fun hno => ?_⟩
  · rcases complete_cases ht with ⟨j, v, hj, hv, heq⟩ | ⟨⟨w, hw⟩, _⟩
    · cases hi.symm.trans hj
      exact ⟨v, hv, heq⟩
    · cases hi.symm.trans hw
  · rw [Host.Outcome.next.inj (ht.symm.trans (complete_of_not_command u hno))]
    obtain ⟨_, hkey, hhmac, hdigest, _⟩ := recordError_only .illegal (opcField p.word) u
    exact ⟨recordError_recorded .illegal _ u, rfl, recordError_sameSession .illegal _ u, hkey, hhmac, hdigest⟩

/-- Settles O45: `reaches_idle` for the bound, `reaches_due` and `complete_effect` for the run without a reset. -/
theorem everyAcceptedCommandCompletes : Obligations.EveryAcceptedCommandCompletes := by
  intro s p hr hp hin
  refine ⟨reaches_idle p.delay rfl hr hp hin, fun hreset => ?_⟩
  have hin' : ∀ inp ∈ s.inputs, Admitted inp = true ∧ inp ≠ .assertReset :=
    fun inp hmem => ⟨hin inp hmem, fun heq => hreset (heq ▸ hmem)⟩
  obtain ⟨n, u, q, hn, hrun, hmove, hword, hlatch, hsession, hkey, hhmac, hdigest⟩ := reaches_due p.delay rfl hr hp hin'
  obtain ⟨t, ht, hcommand, hillegal⟩ := complete_effect q u
  rw [hword] at hcommand hillegal
  exact ⟨n, u, q, t, hn, hrun, hmove, hword, hlatch, hsession, hkey, hhmac, hdigest,
    (run_add 1 hrun).trans (run_one ((step_of_engineMoves hmove).trans ht)), hcommand, hillegal⟩

/-! ### Command statements -/

theorem inputStep_poll_of_busy {s : State} (hr : s.inReset = false) (hb : s.busy = true) :
    inputStep .poll s = .next (noteRead 0x08 { s with inputs := .poll :: s.inputs }) := by
  rw [inputStep, if_neg (by simp [hr]), if_pos hb]

theorem inputStep_poll_of_idle {s : State} (hr : s.inReset = false) (hb : s.busy = false) :
    inputStep .poll s = .next (noteRead 0x08 s) := by
  rw [inputStep, if_neg (by simp [hr]), if_neg (by simp [hb])]

/-- The state after a POLL's read of STATUS, with the inputs left (R90). -/
def afterPoll (ins : List Input) (s : State) : State := noteRead 0x08 (countDown { s with inputs := ins })

theorem countDown_busy (s : State) : (countDown s).busy = s.busy := Option.isSome_map

/-- A POLL that reads BUSY = 1 reads again (R90). -/
theorem step_poll_busy {s : State} {p : Pending} {rest : List Input} (h : HostMoves s) (hp : s.pend = some p)
    (hi : s.inputs = .poll :: rest) : step s = .next (afterPoll (.poll :: rest) s) :=
  (step_of_hostMoves h hi).trans (inputStep_poll_of_busy (s := countDown { s with inputs := rest }) h.1
    ((countDown_busy _).trans (congrArg Option.isSome hp)))

/-- A POLL that reads BUSY = 0 is done (R90). -/
theorem step_poll_idle {s : State} {rest : List Input} (h : HostMoves s) (hp : s.pend = none)
    (hi : s.inputs = .poll :: rest) : step s = .next (afterPoll rest s) :=
  (step_of_hostMoves h hi).trans (inputStep_poll_of_idle (s := countDown { s with inputs := rest }) h.1
    ((countDown_busy _).trans (congrArg Option.isSome hp)))

/-- A POLL waits until no command is in flight: the state is then idle with the POLL still to come (R90, R254). -/
theorem poll_reaches_idle (d : Nat) {s : State} {p : Pending} {rest : List Input} (hd : p.delay = d)
    (hr : s.inReset = false) (hp : s.pend = some p) (hi : s.inputs = .poll :: rest) :
    ∃ n t, Host.Core.run Sys2Proof.core n s = .next t ∧ t.pend = none ∧ t.inReset = false ∧ t.inputs = .poll :: rest ∧
      t.ctrl = s.ctrl ∧ t.data0 = s.data0 ∧ t.data1 = s.data1 := by
  induction d generalizing s p with
  | zero =>
    obtain ⟨t, ht⟩ := complete_is_next p s
    obtain ⟨hpend, hctrl, hdata0, hdata1, hreset, hinputs, _⟩ := complete_frame ht
    exact ⟨1, _, run_one ((step_of_engineMoves ⟨hr, hp, .inr hd⟩).trans ht), hpend, hreset.trans hr, hinputs.trans hi,
      hctrl, hdata0, hdata1⟩
  | succ d ih =>
    have hmoves : HostMoves s := ⟨hr, fun q hq => by cases hp.symm.trans hq; omega⟩
    have hstep := step_poll_busy hmoves hp hi
    have hpend : (afterPoll (.poll :: rest) s).pend = some { p with delay := p.delay - 1 } := congrArg (Option.map _) hp
    obtain ⟨n, t, hrun, hrest⟩ := ih (s := afterPoll (.poll :: rest) s) (p := { p with delay := p.delay - 1 })
      (by rw [hd]; rfl) hr hpend rfl
    exact ⟨n + 1, t, (run_succ hstep).trans hrun, hrest⟩

/-- From an idle state, POLL and the CMD write of a statement leave its word pending with copies of the live registers (R89,
70_reset R245, R246). -/
theorem asmCmd_accepted {s : State} {m : Mnemonic} {imm : Nat} {rest : List Input} (hr : s.inReset = false)
    (hp : s.pend = none) (hi : s.inputs = asmCmd m imm ++ rest) :
    ∃ t p, Host.Core.run Sys2Proof.core 2 s = .next t ∧ t.inputs = rest ∧ t.pend = some p ∧
      p.word = encodeParts m (BitVec.ofNat 8 imm) ∧ p.latch = s.liveLatch := by
  have hmoves : ∀ u : State, u.inReset = false → u.pend = none → HostMoves u :=
    fun _ hr' hp' => ⟨hr', fun p hsome => by rw [hp'] at hsome; cases hsome⟩
  let w : Word := encodeParts m (BitVec.ofNat 8 imm)
  let u : State := afterPoll (.write (Config.base + 0x0C) 4 w :: rest) s
  have hpoll : step s = .next u := step_poll_idle (hmoves s hr hp) hp hi
  have hpend : u.pend = none := Option.map_eq_none_iff.2 hp
  have hwrite := step_cmd_write (hmoves u hr hpend) rfl
  have hrun := (run_succ (n := 1) hpoll).trans (run_one hwrite)
  rcases writeCmd_cases w (countDown { u with inputs := rest }) with ⟨_, d, heq⟩ | ⟨hbusy, _⟩
  · exact ⟨_, _, hrun.trans (congrArg _ heq), rfl, rfl, rfl, rfl⟩
  · exact absurd (Option.map_eq_none_iff.2 hpend) hbusy

/-- Settles O46: the POLL waits for the command in flight, whose completion leaves the live registers, then the word is
accepted. -/
theorem commandStatementsAreNeverDropped : Obligations.CommandStatementsAreNeverDropped := by
  intro s m imm rest hr hi
  cases hp : s.pend with
  | none =>
    obtain ⟨t, p, hrun, hrest⟩ := asmCmd_accepted hr hp hi
    exact ⟨2, t, p, hrun, hrest⟩
  | some q =>
    obtain ⟨n, u, hrun, hpend, hr', hi', hctrl, hdata0, hdata1⟩ := poll_reaches_idle q.delay rfl hr hp hi
    obtain ⟨t, p, hrun', hin, htp, hword, hlatch⟩ := asmCmd_accepted (m := m) (imm := imm) hr' hpend hi'
    have hlive : u.liveLatch = s.liveLatch := by simp only [State.liveLatch, hctrl, hdata0, hdata1]
    exact ⟨n + 2, t, p, (run_add 2 hrun).trans hrun', hin, htp, hword, hlatch.trans hlive⟩

end Sys2Proof.Machine
end

section
/-! PROOFS. Who changes the digest and the key (10_state R32, R39), and sequences of commands: a raw session commits its key's
expansion (42_key section 2), and a computation publishes the HMAC of its key and message (44_hmac section 3). -/

namespace Sys2Proof.Machine

/-! ### The digest and the key -/

/-- Settles O29: `exec_digest_cases` says it of every command. -/
theorem onlyPublicationAndSrstChangeTheDigest : Obligations.OnlyPublicationAndSrstChangeTheDigest := by
  intro i s t h
  rcases exec_digest_cases h with hsame | hsrst | ⟨hi, hact, herr, _⟩
  · exact .inl hsame
  · exact .inr (.inl hsrst)
  · exact .inr (.inr ⟨hi, hact, herr⟩)

/-- BEND touches only the session and the error record, or commits (41_base32 R129). -/
theorem exec_bend_frame {s t : State} (h : exec .bend s = .next t) :
    OnlySessionAndError s t ∨
    (s.ksph = .b32 ∧ lenOk s.latched.ctrl.mode s.nbits = true ∧ s.kcnt ≠ 0 ∧ t = commit s) := by
  rcases exec_bend_cases h with ⟨_, rfl⟩ | ⟨_, _, rfl⟩ | ⟨_, _, rfl⟩ | ⟨_, _, _, rfl⟩ | hcommit
  · exact .inl (endSession_only s)
  · exact .inl (recordError_only .sequence 0x23#8 s)
  · exact .inl (endSession_recordError_spec .fractional 0x23#8 s).2.2
  · exact .inl (endSession_recordError_spec .empty 0x23#8 s).2.2
  · exact .inr hcommit

/-- KEND touches only the session and the error record, or commits (42_key R150). -/
theorem exec_kend_frame {s t : State} (h : exec .kend s = .next t) :
    OnlySessionAndError s t ∨ (s.ksph = .raw ∧ t = commit s) := by
  rcases exec_kend_cases h with ⟨_, rfl⟩ | ⟨_, _, rfl⟩ | hcommit
  · exact .inl (endSession_only s)
  · exact .inl (recordError_only .sequence 0x13#8 s)
  · exact .inr hcommit

/-- Settles O30: the frame of each kind of command keeps the key, but for SRST and the two commits. -/
theorem onlyCommitAndSrstChangeTheKey : Obligations.OnlyCommitAndSrstChangeTheKey := by
  intro i s t h
  rcases exec_frame h with ⟨_, hkey, _⟩ | hsrst | ⟨hi, hraw, _⟩ | ⟨rfl, _⟩ | hhmac | rfl
  · exact .inl hkey
  · exact .inr (.inl hsrst)
  · exact .inr (.inr (.inl ⟨hi, hraw⟩))
  · rcases exec_bend_frame h with ⟨_, hkey, _⟩ | ⟨hb32, hlen, hcnt, _⟩
    · exact .inl hkey
    · exact .inr (.inr (.inr ⟨rfl, hb32, hlen, hcnt⟩))
  · obtain ⟨_, _, hkey, _⟩ := exec_hmac_frame h hhmac
    exact .inl hkey
  · obtain ⟨_, _, hkey, _⟩ := exec_hfinish_frame h
    exact .inl hkey

/-! ### What HFINISH publishes -/

/-- The outer hash of K' and the finished inner hash is the HMAC (44_hmac R190, R197). -/
theorem publish_dig_bytes_eq_hmac {key msg kp : List Byte} {ictx : Sha1Ctx} (hkp : kp = expandKey key)
    (hictx : ictx = Sha1Ctx.init.absorbAll (innerKey kp ++ msg)) (u : State) :
    (publish (outerDigest kp ictx.final) u).dig.bytes = hmacSha1 key msg := by
  rw [publish_outerDigest_bytes, hictx, hkp]
  rfl

/-- Settles O57: the abstract view gives the key and the message, the published digest is their HMAC. -/
theorem publishedDigestsAreHmacs : Obligations.PublishedDigestsAreHmacs := by
  intro s t hs hkvalid hact herr h
  obtain ⟨key, hkp, hklen⟩ := hs.committed hkvalid
  obtain ⟨msg, hmcnt, hictx⟩ := hs.message hact
  rcases exec_hfinish_cases h with ⟨hclosed, _⟩ | ⟨_, herr', _⟩ | ⟨_, _, rfl⟩
  · exact absurd (hclosed.symm.trans hact) (by decide)
  · exact absurd (herr.symm.trans herr') (by decide)
  · exact ⟨key, msg, hkp, hklen, hmcnt, hictx, publish_dvalid _ _, publish_dig_bytes_eq_hmac hkp hictx _⟩

/-! ### Commands one after the other -/

theorem completeAll_cons {p : Pending} {s t : State} (h : complete p { s with pend := some p } = .next t)
    (ps : List Pending) : completeAll (p :: ps) s = completeAll ps t := by
  rw [completeAll, h]

theorem completeAll_append {ps : List Pending} {s t : State} (h : completeAll ps s = .next t) (qs : List Pending) :
    completeAll (ps ++ qs) s = completeAll qs t := by
  induction ps generalizing s with
  | nil => cases h; rfl
  | cons p ps ih =>
    obtain ⟨u, hu⟩ := complete_is_next p { s with pend := some p }
    rw [completeAll_cons hu] at h
    rw [List.cons_append, completeAll_cons hu, ih h]

/-- The completion of a word that decodes is its command's effect, retired (70_reset R247). -/
theorem complete_of_command {p : Pending} {i : Instr} {s t : State} (hd : decode p.word = .command i)
    (h : exec i s = .next t) : complete p s = .next (retire t) := by
  rw [complete, hd]
  show retireOutcome (exec i s) = _
  rw [h]
  rfl

/-! ### A raw session -/

/-- In a raw session KBYTE is a push (42_key R148). -/
theorem exec_kbyte_of_raw {s : State} (h : s.ksph = .raw) (b : Byte) :
    exec (.kbyte b) s = .next (keyPush b 0x11#8 s) := by
  obtain ⟨t, ht⟩ := exec_is_next (.kbyte b) s
  rcases exec_kbyte_cases ht with ⟨hf, _⟩ | ⟨_, hr, _⟩ | ⟨_, rfl⟩
  · rw [h] at hf; cases hf
  · exact absurd h hr
  · exact ht

/-- In a raw session KEND is a commit (R150). -/
theorem exec_kend_of_raw {s : State} (h : s.ksph = .raw) : exec .kend s = .next (commit s) := by
  obtain ⟨t, ht⟩ := exec_is_next .kend s
  rcases exec_kend_cases ht with ⟨hf, _⟩ | ⟨_, hr, _⟩ | ⟨_, rfl⟩
  · rw [h] at hf; cases hf
  · exact absurd h hr
  · exact ht

/-- KBYTEs within the limit stage their bytes, one after the other (R141). -/
theorem completeAll_kbytes (l : Latch) (bs : List Byte) {key : List Byte} {s : State} (hph : s.ksph = .raw)
    (hkey : StagedKey key s) (hlimit : key.length + bs.length ≤ Config.maxKeyBytes) :
    ∃ t, completeAll (bs.map (fun b => { word := encode (.kbyte b), latch := l, delay := 0 })) s = .next t ∧
      t.ksph = .raw ∧ StagedKey (key ++ bs) t ∧ SameError s t ∧ SameDigest s t := by
  induction bs generalizing key s with
  | nil => exact ⟨s, rfl, hph, by rw [List.append_nil]; exact hkey, sameError_refl s, rfl, rfl⟩
  | cons b bs ih =>
    rw [List.length_cons] at hlimit
    let p : Pending := { word := encode (.kbyte b), latch := l, delay := 0 }
    let u : State := retire (keyPush b 0x11#8 { s with pend := some p })
    have hne : s.kcnt ≠ Config.maxKeyBytes := by rw [← hkey.1]; omega
    have hstep : complete p { s with pend := some p } = .next u :=
      complete_of_command (decode_encode _) (exec_kbyte_of_raw (s := { s with pend := some p }) hph b)
    have hpushed := keyPush_pushed b 0x11#8 { s with pend := some p }
    obtain ⟨herror, hph', _⟩ := hpushed.2 hne
    obtain ⟨_, _, _, hdigest, _⟩ := keyPush_only b 0x11#8 { s with pend := some p }
    have hkey' : StagedKey (key ++ [b]) u := StagedKey.pushed (s := { s with pend := some p }) hkey hpushed hne
    obtain ⟨t, hrun, hph'', hkey'', herror', hdvalid, hdig⟩ := ih (s := u) (hph'.trans hph) hkey'
      (by rw [List.length_append, List.length_singleton]; omega)
    refine ⟨t, (completeAll_cons hstep _).trans hrun, hph'', by rwa [List.append_assoc] at hkey'',
      sameError_trans herror herror', hdvalid.trans hdigest.1, hdig.trans hdigest.2⟩

/-- Settles O19: KBEGIN opens an empty session, the KBYTEs stage the key, and KEND commits its expansion. -/
theorem rawSessionCommitsTheExpandedKey : Obligations.RawSessionCommitsTheExpandedKey := by
  intro s l key hlimit
  let first : Pending := { word := encode .kbegin, latch := l, delay := 0 }
  let last : Pending := { word := encode .kend, latch := l, delay := 0 }
  let s0 : State := retire { clearStaging { s with pend := some first } with ksph := .raw }
  have hbegin : complete first { s with pend := some first } = .next s0 := complete_of_command (decode_encode _) rfl
  obtain ⟨t, hrun, hph, hkey, herror, hdigest⟩ :=
    completeAll_kbytes l key (s := s0) rfl (stagedKey_nil rfl rfl) (by rw [List.length_nil]; omega)
  have hend : complete last { t with pend := some last } = .next (retire (commit { t with pend := some last })) :=
    complete_of_command (decode_encode _) (exec_kend_of_raw (s := { t with pend := some last }) hph)
  refine ⟨_, (completeAll_cons hbegin _).trans ((completeAll_append hrun [last]).trans (completeAll_cons hend [])),
    rfl, StagedKey.expandStaged (s := { t with pend := some last }) hkey, ?_, rfl, ⟨rfl, rfl, rfl, rfl, rfl⟩, herror,
    hdigest⟩
  show BitVec.ofNat 32 t.kcnt = _
  rw [← hkey.1]
  rfl

/-! ### A computation -/

/-- A computation over `msg` with the expansion of `key` is open (10_state R40). -/
def Computing (key msg : List Byte) (s : State) : Prop :=
  s.hact = true ∧ s.kp = expandKey key ∧ s.mcnt = msg.length ∧ s.ictx = Sha1Ctx.init.absorbAll (innerKey s.kp ++ msg)

theorem Computing.of_same {key msg : List Byte} {s t : State} (h : Computing key msg s) (hkey : SameKey s t)
    (hhmac : SameHmac s t) : Computing key msg t := by
  obtain ⟨_, hkp, _⟩ := hkey
  obtain ⟨hact, hictx, hmcnt⟩ := hhmac
  unfold Computing
  rw [hact, hkp, hmcnt, hictx]
  exact h

/-- HSTART opens a computation over nothing when a key is committed (44_hmac R193). -/
theorem exec_hstart_computing {key : List Byte} {s t : State} (hkvalid : s.kvalid = true) (hkp : s.kp = expandKey key)
    (h : exec .hstart s = .next t) : Computing key [] t ∧ SameDigest s t := by
  rcases exec_hstart_cases h with ⟨hno, _⟩ | ⟨_, rfl⟩
  · exact absurd (hno.symm.trans hkvalid) (by decide)
  · exact ⟨⟨rfl, hkp, rfl, by rw [List.append_nil]⟩, rfl, rfl⟩

/-- Bytes that fit are absorbed into the message (R198). -/
theorem Computing.offer {key msg bs : List Byte} {s : State} (h : Computing key msg s)
    (hfits : msg.length + bs.length ≤ Config.maxMsgBytes) (o : Byte) :
    Computing key (msg ++ bs) (offerMessage bs o s) ∧ SameDigest s (offerMessage bs o s) := by
  obtain ⟨hact, hkp, hmcnt, hictx⟩ := h
  rcases offerMessage_cases bs o s with ⟨hclosed, _⟩ | ⟨_, hlimit, _⟩ | ⟨_, _, ht⟩
  · exact absurd (hclosed.symm.trans hact) (by decide)
  · omega
  · rw [ht]
    refine ⟨⟨hact, hkp, ?_, ?_⟩, rfl, rfl⟩
    · show s.mcnt + bs.length = _
      rw [hmcnt, List.length_append]
    · show s.ictx.absorbAll bs = _
      rw [hictx, ← absorbAll_append, List.append_assoc]

/-- A command that touches only the session and the error record leaves the computation open over the same message. -/
theorem Computing.of_onlySessionAndError {key msg : List Byte} {s t : State} (h : Computing key msg s)
    (hst : OnlySessionAndError s t) : Computing key (msg ++ []) t ∧ SameDigest s t := by
  obtain ⟨_, hkey, hhmac, hdigest, _⟩ := hst
  rw [List.append_nil]
  exact ⟨h.of_same hkey hhmac, hdigest⟩

/-- A command that neither ends nor restarts the computation nor replaces the key adds what it offers to the message (R199). -/
theorem Computing.after_exec {key msg bs : List Byte} {s t : State} {p : Pending} {i : Instr} (h : Computing key msg s)
    (hp : s.pend = some p) (hd : decode p.word = .command i) (ht : exec i s = .next t)
    (hbs : offeredBytes p s = some bs) (hfits : msg.length + bs.length ≤ Config.maxMsgBytes) :
    Computing key (msg ++ bs) t ∧ SameDigest s t := by
  have hlatch := latched_of_pend hp
  cases i <;> simp only [offeredBytes, hd, Option.some.injEq, reduceCtorEq] at hbs
  case mbyte b => subst hbs; cases ht; exact h.offer hfits 0x31#8
  case mword =>
    cases ht
    rw [← hlatch] at hbs
    subst hbs
    exact h.offer hfits 0x32#8
  case mctr =>
    cases ht
    rw [← hlatch] at hbs
    subst hbs
    exact h.offer hfits 0x33#8
  case kend =>
    split_ifs at hbs with hraw
    cases hbs
    rcases exec_kend_frame ht with hsession | ⟨hraw', _⟩
    · exact h.of_onlySessionAndError hsession
    · exact absurd hraw' hraw
  case bend =>
    split_ifs at hbs with hcommits
    cases hbs
    rcases exec_bend_frame ht with hsession | ⟨hb32, hlen, hcnt, _⟩
    · exact h.of_onlySessionAndError hsession
    · rw [hlatch] at hlen
      exact absurd ⟨hb32, hlen, hcnt⟩ hcommits
  all_goals
    subst hbs
    rcases exec_frame ht with hsession | hne | ⟨hne, _⟩ | ⟨hne, _⟩ | hhmac | hne
    · exact h.of_onlySessionAndError hsession
    · cases hne
    · cases hne
    · cases hne
    · simp at hhmac
    · cases hne

/-- The same for a completion: an illegal word offers nothing. -/
theorem Computing.after_complete {key msg bs : List Byte} {s t : State} {p : Pending} (h : Computing key msg s)
    (hp : s.pend = some p) (ht : complete p s = .next t) (hbs : offeredBytes p s = some bs)
    (hfits : msg.length + bs.length ≤ Config.maxMsgBytes) : Computing key (msg ++ bs) t ∧ SameDigest s t := by
  rcases complete_cases ht with ⟨i, u, hd, hu, rfl⟩ | ⟨⟨w, hd⟩, rfl⟩
  · have heffect : Computing key (msg ++ bs) u ∧ SameDigest s u := h.after_exec hp hd hu hbs hfits
    exact heffect
  · simp only [offeredBytes, hd, Option.some.injEq] at hbs
    subst hbs
    have heffect := h.of_onlySessionAndError (recordError_only .illegal (opcField p.word) s)
    exact heffect

/-- What a sequence offers is what its first command offers, then what the others do. -/
theorem offeredMessage_cons {p : Pending} {ps : List Pending} {s : State} {m : List Byte}
    (h : offeredMessage (p :: ps) s = some m) :
    ∃ bs t r, offeredBytes p s = some bs ∧ complete p { s with pend := some p } = .next t ∧
      offeredMessage ps t = some r ∧ m = bs ++ r := by
  obtain ⟨t, ht⟩ := complete_is_next p { s with pend := some p }
  cases hbs : offeredBytes p s with
  | none => simp only [offeredMessage, hbs, reduceCtorEq] at h
  | some bs =>
    simp only [offeredMessage, hbs, ht, Option.map_eq_some_iff] at h
    obtain ⟨r, hr, hm⟩ := h
    exact ⟨bs, _, r, rfl, ht, hr, hm.symm⟩

/-- Commands between HSTART and HFINISH add what they offer to the message, and leave the digest (R199). -/
theorem Computing.after_completeAll {key msg m : List Byte} {ps : List Pending} {s : State} (h : Computing key msg s)
    (hm : offeredMessage ps s = some m) (hfits : msg.length + m.length ≤ Config.maxMsgBytes) :
    ∃ t, completeAll ps s = .next t ∧ Computing key (msg ++ m) t ∧ SameDigest s t := by
  induction ps generalizing msg m s with
  | nil =>
    cases hm
    exact ⟨s, rfl, by rw [List.append_nil]; exact h, rfl, rfl⟩
  | cons p ps ih =>
    obtain ⟨bs, t, r, hbs, ht, hr, rfl⟩ := offeredMessage_cons hm
    rw [List.length_append] at hfits
    obtain ⟨hcomp, hdvalid, hdig⟩ := Computing.after_complete (s := { s with pend := some p }) h rfl ht hbs (by omega)
    obtain ⟨u, hrun, hcomp', hdvalid', hdig'⟩ := ih hcomp hr (by rw [List.length_append]; omega)
    rw [List.append_assoc] at hcomp'
    exact ⟨u, (completeAll_cons ht ps).trans hrun, hcomp', hdvalid'.trans hdvalid, hdig'.trans hdig⟩

/-- HFINISH closes the computation and publishes the HMAC, unless an error is recorded (R197, 60_exceptions R220). -/
theorem Computing.finish {key msg : List Byte} {s t : State} (h : Computing key msg s) (ht : exec .hfinish s = .next t) :
    t.hact = false ∧ (s.err = false → t.dvalid = true ∧ t.dig.bytes = hmacSha1 key msg) ∧
      (s.err = true → SameDigest s t) := by
  obtain ⟨hact, hkp, _, hictx⟩ := h
  rcases exec_hfinish_cases ht with ⟨hclosed, _⟩ | ⟨_, herr, rfl⟩ | ⟨_, herr, rfl⟩
  · exact absurd (hclosed.symm.trans hact) (by decide)
  · exact ⟨rfl, fun hno => absurd (hno.symm.trans herr) (by decide), fun _ => ⟨rfl, rfl⟩⟩
  · exact ⟨rfl, fun _ => ⟨rfl, publish_dig_bytes_eq_hmac hkp hictx _⟩,
      fun hyes => absurd (herr.symm.trans hyes) (by decide)⟩

/-- Settles O28: HSTART opens a computation over nothing, the commands between add the message, HFINISH publishes. -/
theorem commandSequenceComputesHmac : Obligations.CommandSequenceComputesHmac := by
  intro key msg s first last between hkvalid hkp hfirst hlast hfits
  obtain ⟨t0, ht0⟩ := exec_is_next .hstart { s with pend := some first }
  obtain ⟨hcomp, hdvalid, hdig⟩ := exec_hstart_computing (s := { s with pend := some first }) hkvalid hkp ht0
  refine ⟨retire t0, completeAll_cons (complete_of_command hfirst ht0) [], fun hoffered => ?_⟩
  have hcomp0 : Computing key [] (retire t0) := hcomp
  obtain ⟨t, hrun, hcomp', hdvalid', hdig'⟩ := hcomp0.after_completeAll hoffered (by rw [List.length_nil]; omega)
  obtain ⟨u, hu⟩ := exec_is_next .hfinish { t with pend := some last }
  obtain ⟨hclosed, hpublished, hkept⟩ := Computing.finish (s := { t with pend := some last }) hcomp' hu
  refine ⟨t, retire u, hrun, completeAll_cons (complete_of_command hlast hu) [], hclosed, hpublished, fun herr => ?_⟩
  obtain ⟨hdvalid'', hdig''⟩ := hkept herr
  exact ⟨hdvalid''.trans (hdvalid'.trans hdvalid), hdig''.trans (hdig'.trans hdig)⟩

end Sys2Proof.Machine
end

section
/-! PROOFS. A Base32 string as a bit string (41_base32 R124): its BCHARs stage the whole bytes of its bits and keep the rest. -/

namespace Sys2Proof.Machine

/-! ### Bit strings in numbers -/

theorem bitsToNat_append (xs ys : List Bool) :
    bitsToNat (xs ++ ys) = bitsToNat xs * 2 ^ ys.length + bitsToNat ys := by
  have hfold : ∀ (ys : List Bool) (n : Nat),
      ys.foldl (fun n b => 2 * n + b.toNat) n = n * 2 ^ ys.length + ys.foldl (fun n b => 2 * n + b.toNat) 0 := by
    intro ys
    induction ys with
    | nil => intro n; simp
    | cons b ys ih =>
      intro n
      rw [List.foldl_cons, List.foldl_cons, ih, ih (2 * 0 + b.toNat), List.length_cons, Nat.pow_succ]
      ring
  rw [bitsToNat, List.foldl_append]
  exact hfold ys _

theorem bitsToNat_lt (xs : List Bool) : bitsToNat xs < 2 ^ xs.length := by
  induction xs using List.reverseRecOn with
  | nil => decide
  | append_singleton xs b ih =>
    have hb : bitsToNat [b] < 2 := by cases b <;> decide
    rw [bitsToNat_append, List.length_append, List.length_singleton, Nat.pow_succ]
    omega

/-- The first bits of a string are the high part of its number, the others the low part. -/
theorem bitsToNat_take_drop (xs : List Bool) (k : Nat) :
    bitsToNat (xs.take k) = bitsToNat xs / 2 ^ (xs.length - k) ∧
      bitsToNat (xs.drop k) = bitsToNat xs % 2 ^ (xs.length - k) := by
  have hsplit := bitsToNat_append (xs.take k) (xs.drop k)
  have hlt := bitsToNat_lt (xs.drop k)
  rw [List.take_append_drop] at hsplit
  rw [List.length_drop] at hsplit hlt
  rw [hsplit, Nat.mul_comm]
  exact ⟨by rw [Nat.mul_add_div (Nat.two_pow_pos _), Nat.div_eq_of_lt hlt, Nat.add_zero],
    by rw [Nat.mul_add_mod, Nat.mod_eq_of_lt hlt]⟩

@[simp] theorem valueBits_length (v : BitVec 5) : (valueBits v).length = 5 := rfl

/-- Five bits are their value. -/
theorem bitsToNat_valueBits (v : BitVec 5) : bitsToNat (valueBits v) = v.toNat := by revert v; decide

/-! ### The whole bytes of a bit string -/

@[simp] theorem bitsToBytes_length (bits : List Bool) : (bitsToBytes bits).length = bits.length / 8 := by
  rw [bitsToBytes, List.length_map, List.length_range]

/-- Bits that come later do not change a whole byte. -/
theorem take_drop_append {xs : List Bool} {j : Nat} (h : j < xs.length / 8) (ys : List Bool) :
    ((xs ++ ys).drop (8 * j)).take 8 = (xs.drop (8 * j)).take 8 := by
  rw [List.drop_append_of_le_length (by omega), List.take_append_of_le_length (by rw [List.length_drop]; omega)]

/-- Bits that complete no byte add none. -/
theorem bitsToBytes_append_of_lt {xs ys : List Bool} (h : xs.length % 8 + ys.length < 8) :
    bitsToBytes (xs ++ ys) = bitsToBytes xs := by
  have hlen : (xs ++ ys).length / 8 = xs.length / 8 := by rw [List.length_append]; omega
  rw [bitsToBytes, hlen]
  refine List.map_congr_left fun j hj => ?_
  rw [take_drop_append (List.mem_range.1 hj)]

/-- Bits that complete one byte add it: the first eight of the leftover and the new bits. -/
theorem bitsToBytes_append_of_ge {xs ys : List Bool} (hge : 8 ≤ xs.length % 8 + ys.length)
    (hlt : xs.length % 8 + ys.length < 16) :
    bitsToBytes (xs ++ ys) =
      bitsToBytes xs ++ [BitVec.ofNat 8 (bitsToNat ((xs.drop (8 * (xs.length / 8)) ++ ys).take 8))] := by
  have hlen : (xs ++ ys).length / 8 = xs.length / 8 + 1 := by rw [List.length_append]; omega
  have hold : bitsToBytes xs = (List.range (xs.length / 8)).map
      (fun j => BitVec.ofNat 8 (bitsToNat (((xs ++ ys).drop (8 * j)).take 8))) :=
    List.map_congr_left fun j hj => by rw [take_drop_append (List.mem_range.1 hj)]
  have hnew : (xs ++ ys).drop (8 * (xs.length / 8)) = xs.drop (8 * (xs.length / 8)) ++ ys :=
    List.drop_append_of_le_length (by omega)
  rw [hold, bitsToBytes, hlen, List.range_succ, List.map_append, List.map_singleton, hnew]

/-! ### The session that holds a bit string -/

/-- The whole bytes of a bit string are staged, the rest is in ACC (R122, R124). -/
def HoldsBits (bits : List Bool) (s : State) : Prop :=
  StagedKey (bitsToBytes bits) s ∧ s.nbits = bits.length % 8 ∧
    s.acc.toNat = bitsToNat (bits.drop (8 * (bits.length / 8)))

/-- The leftover bits are within R122. -/
theorem HoldsBits.bitsBounded {bits : List Bool} {s : State} (h : HoldsBits bits s) : BitsBounded s := by
  obtain ⟨_, hnbits, hacc⟩ := h
  have hlt := bitsToNat_lt (bits.drop (8 * (bits.length / 8)))
  rw [List.length_drop, show bits.length - 8 * (bits.length / 8) = bits.length % 8 by omega, ← hacc, ← hnbits] at hlt
  exact ⟨by omega, hlt⟩

/-- A value adds its five bits to the string, as long as the byte it may complete fits (R123). -/
theorem HoldsBits.value {bits : List Bool} {s : State} (h : HoldsBits bits s) (v : BitVec 5) (o : Byte)
    (hlimit : (bits.length + 5) / 8 ≤ Config.maxKeyBytes) :
    let t := b32Value v o s
    HoldsBits (bits ++ valueBits v) t ∧ SameError s t ∧ t.ksph = s.ksph := by
  have hbounded := h.bitsBounded
  obtain ⟨hkey, hnbits, hacc⟩ := h
  have hlen : (bits ++ valueBits v).length = bits.length + 5 := by rw [List.length_append, valueBits_length]
  have hrest : (bits ++ valueBits v).drop (8 * (bits.length / 8)) =
      bits.drop (8 * (bits.length / 8)) ++ valueBits v := List.drop_append_of_le_length (by omega)
  have hrestlen : (bits.drop (8 * (bits.length / 8)) ++ valueBits v).length = s.nbits + 5 := by
    rw [List.length_append, List.length_drop, valueBits_length, hnbits]; omega
  have hstream : bitsToNat (bits.drop (8 * (bits.length / 8)) ++ valueBits v) = s.acc.toNat * 32 + v.toNat := by
    rw [bitsToNat_append, bitsToNat_valueBits, hacc]
    rfl
  rcases Nat.lt_or_ge s.nbits 3 with hn | hn
  · obtain ⟨hacc', hnbits', hksph, hsame, herror⟩ := b32Value_short (v := v) (o := o) hbounded hn rfl
    have hdiv : (bits.length + 5) / 8 = bits.length / 8 := by omega
    refine ⟨⟨?_, ?_, ?_⟩, herror, hksph⟩
    · rw [bitsToBytes_append_of_lt (by rw [valueBits_length]; omega)]
      exact hkey.of_sameStagedBytes hsame
    · rw [hnbits', hlen]; omega
    · rw [hacc', hlen, hdiv, hrest, hstream]
  · obtain ⟨hacc', hnbits', hpushed⟩ := b32Value_long (v := v) (o := o) hbounded hn rfl
    have hdiv : (bits.length + 5) / 8 = bits.length / 8 + 1 := by omega
    obtain ⟨htake, hdrop⟩ := bitsToNat_take_drop (bits.drop (8 * (bits.length / 8)) ++ valueBits v) 8
    rw [hrestlen, hstream, show s.nbits + 5 - 8 = s.nbits - 3 by omega] at htake hdrop
    have hne : s.kcnt ≠ Config.maxKeyBytes := by rw [← hkey.1, bitsToBytes_length]; omega
    obtain ⟨herror, hksph, _⟩ := hpushed.2 hne
    refine ⟨⟨?_, ?_, ?_⟩, herror, hksph⟩
    · rw [bitsToBytes_append_of_ge (by rw [valueBits_length]; omega) (by rw [valueBits_length]; omega), htake]
      exact hkey.pushed hpushed hne
    · rw [hnbits', hlen]; omega
    · rw [hacc', hlen, hdiv, Nat.mul_succ 8, ← List.drop_drop, hrest, hdrop]

/-- A SKIP character or one with a value adds its bits to the string. -/
theorem HoldsBits.char {bits : List Bool} {s : State} (h : HoldsBits bits s) {strip : Bool} {c : Byte} (o : Byte)
    (hc : charClass strip c ≠ .bad) (hlimit : (bits ++ charBits strip [c]).length / 8 ≤ Config.maxKeyBytes) :
    let t := b32Char strip c o s
    HoldsBits (bits ++ charBits strip [c]) t ∧ SameError s t ∧ t.ksph = s.ksph := by
  rcases b32Char_cases strip c o s with ⟨hclass, ht⟩ | ⟨hclass, _⟩ | ⟨v, hclass, ht⟩
  · have hbits : charBits strip [c] = [] := by simp [charBits, charValues, hclass]
    rw [ht, hbits, List.append_nil]
    exact ⟨h, sameError_refl s, rfl⟩
  · exact absurd hclass hc
  · have hbits : charBits strip [c] = valueBits v := by simp [charBits, charValues, hclass]
    rw [hbits, List.length_append, valueBits_length] at hlimit
    rw [ht, hbits]
    exact h.value v o hlimit

theorem charBits_cons (strip : Bool) (c : Byte) (cs : List Byte) :
    charBits strip (c :: cs) = charBits strip [c] ++ charBits strip cs := by
  unfold charBits charValues
  rw [← List.flatMap_append, ← List.filterMap_append, List.singleton_append]

theorem charBits_length (strip : Bool) (cs : List Byte) :
    (charBits strip cs).length = 5 * (charValues strip cs).length := by
  rw [charBits, List.length_flatMap, List.map_congr_left (fun v _ => valueBits_length v), List.map_const', List.sum_replicate]
  exact Nat.mul_comm _ _

/-! ### A string of BCHARs -/

/-- The key, the computation and the digest stay through two states if they stay through each. -/
theorem sameButError_trans {a b c : State} (h : SameKey a b ∧ SameHmac a b ∧ SameDigest a b)
    (k : SameKey b c ∧ SameHmac b c ∧ SameDigest b c) : SameKey a c ∧ SameHmac a c ∧ SameDigest a c := by
  simp only [SameKey, SameHmac, SameDigest] at *
  simp [k, h]

/-- In a Base32 session BCHAR decodes its character under the latched STRIP (R126). -/
theorem exec_bchar_of_b32 {s : State} (h : s.ksph = .b32) (c : Byte) :
    exec (.bchar c) s = .next (b32Char s.latched.ctrl.strip c 0x21#8 s) := by
  obtain ⟨t, ht⟩ := exec_is_next (.bchar c) s
  rcases exec_bchar_cases ht with ⟨hf, _⟩ | ⟨_, hb, _⟩ | ⟨_, rfl⟩
  · rw [h] at hf; cases hf
  · exact absurd h hb
  · exact ht

/-- What BCHARs of a string leave: its bits held, and nothing but the session touched (R124). -/
theorem completeAll_bchars (l : Latch) (cs : List Byte) {bits : List Bool} {s : State} (hph : s.ksph = .b32)
    (h : HoldsBits bits s) (hcs : ∀ c ∈ cs, charClass l.ctrl.strip c ≠ .bad)
    (hlimit : (bits ++ charBits l.ctrl.strip cs).length / 8 ≤ Config.maxKeyBytes) :
    ∃ t, completeAll (cs.map (fun c => { word := encode (.bchar c), latch := l, delay := 0 })) s = .next t ∧
      t.ksph = .b32 ∧ HoldsBits (bits ++ charBits l.ctrl.strip cs) t ∧
      SameError s t ∧ SameKey s t ∧ SameHmac s t ∧ SameDigest s t := by
  induction cs generalizing bits s with
  | nil =>
    exact ⟨s, rfl, hph, by rw [charBits, charValues, List.filterMap_nil, List.flatMap_nil, List.append_nil]; exact h,
      sameError_refl s, ⟨rfl, rfl, rfl⟩, ⟨rfl, rfl, rfl⟩, rfl, rfl⟩
  | cons c cs ih =>
    rw [charBits_cons, ← List.append_assoc] at hlimit ⊢
    let p : Pending := { word := encode (.bchar c), latch := l, delay := 0 }
    let u : State := retire (b32Char l.ctrl.strip c 0x21#8 { s with pend := some p })
    have hstep : complete p { s with pend := some p } = .next u :=
      complete_of_command (decode_encode _) (exec_bchar_of_b32 (s := { s with pend := some p }) hph c)
    have hfits : (bits ++ charBits l.ctrl.strip [c]).length / 8 ≤ Config.maxKeyBytes := by
      rw [List.length_append] at hlimit; omega
    obtain ⟨hbits, herror, hksph⟩ := HoldsBits.char (s := { s with pend := some p }) h 0x21#8 (hcs c List.mem_cons_self) hfits
    obtain ⟨_, hkey, hhmac, hdigest, _⟩ := b32Char_only l.ctrl.strip c 0x21#8 { s with pend := some p }
    obtain ⟨t, hrun, hph', hbits', herror', hkey', hhmac', hdigest'⟩ := ih (s := u) (hksph.trans hph) hbits
      (fun c' hc' => hcs c' (List.mem_cons_of_mem _ hc')) hlimit
    have hkept := sameButError_trans ⟨hkey, hhmac, hdigest⟩ ⟨hkey', hhmac', hdigest'⟩
    exact ⟨t, (completeAll_cons hstep _).trans hrun, hph', hbits', sameError_trans herror herror', hkept⟩

/-- Settles O18: a fresh session holds the empty bit string, and the BCHARs add the bits of their characters. -/
theorem stringStagesTheBytesOfItsBits : Obligations.StringStagesTheBytesOfItsBits := by
  intro s l cs hph hkcnt hkraw hnbits hacc hcs hlimit
  rw [bitsToBytes_length] at hlimit
  have hempty : HoldsBits [] s := ⟨stagedKey_nil hkcnt hkraw, hnbits, by rw [hacc]; rfl⟩
  obtain ⟨t, hrun, hph', ⟨⟨hlen, hraw, hctx⟩, hnbits', hacc'⟩, herror, hkey, hhmac, hdigest⟩ :=
    completeAll_bchars l cs hph hempty hcs hlimit
  rw [List.nil_append] at hlen hraw hctx hnbits' hacc'
  rw [charBits_length] at hnbits'
  rw [← bitsToBytes_length, hlen] at hacc'
  exact ⟨t, hrun, hph', herror, hkey, hhmac, hdigest, hlen.symm, hraw, fun hlong => hctx (hlen ▸ hlong), hnbits', hacc'⟩

end Sys2Proof.Machine
end

section
/-! PROOFS. Commands on two related states (70_reset R244, R246, 60_exceptions R219), packaged once: a relation that the shared
operations keep, and that agrees on what the commands test, is kept by every command but ECLR, SRST and HFINISH. -/

namespace Sys2Proof.Machine

/-! ### Relations that the operations keep -/

/-- What two related states agree on: everything that a command tests but ERR and its operands. -/
def SameTests (s s' : State) : Prop :=
  s'.ksph = s.ksph ∧ s'.kcnt = s.kcnt ∧ s'.nbits = s.nbits ∧ s'.kvalid = s.kvalid ∧ s'.hact = s.hact

/-- What a relation needs so that commands keep it: one field per operation that the commands are made of. -/
structure KeptRelation (R : State → State → Prop) : Prop where
  tests : ∀ {s s' : State}, R s s' → SameTests s s'
  of_record : ∀ (c : ErrCode) (o : Byte) {s s' : State}, R s s' → R (recordError c o s) (recordError c o s')
  of_fail : ∀ {s s' : State}, R s s' → R { s with ksph := .failed } { s' with ksph := .failed }
  /-- A session begins or ends (R125, R140, R147). -/
  of_staging : ∀ (ph : Phase) {s s' : State}, R s s' → R { clearStaging s with ksph := ph } { clearStaging s' with ksph := ph }
  of_push : ∀ (b o : Byte) {s s' : State}, R s s' → R (keyPush b o s) (keyPush b o s')
  of_char : ∀ (strip : Bool) (c o : Byte) {s s' : State}, R s s' → R (b32Char strip c o s) (b32Char strip c o s')
  of_commit : ∀ {s s' : State}, R s s' → R (commit s) (commit s')
  /-- A computation is opened (R193). -/
  of_start : ∀ {s s' : State}, R s s' →
    R { s with ictx := Sha1Ctx.init.absorbAll (innerKey s.kp), mcnt := 0, hact := true }
      { s' with ictx := Sha1Ctx.init.absorbAll (innerKey s'.kp), mcnt := 0, hact := true }
  of_message : ∀ (bs : List Byte) (o : Byte) {s s' : State}, R s s' → R (msgPush bs o s) (msgPush bs o s')

namespace KeptRelation

variable {R : State → State → Prop} (hR : KeptRelation R)
include hR

theorem endSession {s s' : State} (h : R s s') : R (endSession s) (endSession s') := hR.of_staging .idle h

theorem keyPushAll (bs : List Byte) (o : Byte) {s s' : State} (h : R s s') : R (keyPushAll bs o s) (keyPushAll bs o s') := by
  induction bs generalizing s s' with
  | nil => exact h
  | cons b bs ih => exact ih (hR.of_push b o h)

theorem b32Chars (strip : Bool) (o : Byte) (cs : List Byte) {s s' : State} (h : R s s') :
    R (b32Chars strip o cs s) (b32Chars strip o cs s') := by
  induction cs generalizing s s' with
  | nil => exact h
  | cons c cs ih =>
    obtain ⟨hksph, _⟩ := hR.tests h
    rw [b32Chars_cons, b32Chars_cons]
    refine ih ?_
    unfold b32WordChar
    rw [hksph]
    split_ifs
    · exact h
    · exact hR.of_char strip c o h

theorem offerMessage (bs : List Byte) (o : Byte) {s s' : State} (h : R s s') :
    R (offerMessage bs o s) (offerMessage bs o s') := by
  obtain ⟨_, _, _, _, hhact⟩ := hR.tests h
  unfold Machine.offerMessage
  rw [hhact]
  split_ifs
  · exact hR.of_record .sequence o h
  · exact hR.of_message bs o h

/-- A command that uses a session of phase `ph`, in two related states: nothing, SEQUENCE or its effect in both. -/
theorem session {ph : Phase} (o : Byte) {s s' u u' : State} {failed failed' : State} (h : R s s') (hf : R failed failed')
    (hu : R u u') :
    R (if s.ksph = .failed then failed else if s.ksph ≠ ph then recordError .sequence o s else u)
      (if s'.ksph = .failed then failed' else if s'.ksph ≠ ph then recordError .sequence o s' else u') := by
  obtain ⟨hksph, _⟩ := hR.tests h
  rw [hksph]
  split_ifs
  · exact hf
  · exact hR.of_record .sequence o h
  · exact hu

/-- With the same operands, every command but ECLR, SRST and HFINISH answers related states from related states. -/
theorem exec {i : Instr} {s s' t : State} (h : R s s') (hlatch : s'.latched = s.latched) (ht : exec i s = .next t)
    (hi : i ≠ .eclr ∧ i ≠ .srst ∧ i ≠ .hfinish) : ∃ t', Machine.exec i s' = .next t' ∧ R t t' := by
  obtain ⟨hksph, hkcnt, hnbits, hkvalid, _⟩ := hR.tests h
  obtain ⟨heclr, hsrst, hhfinish⟩ := hi
  have hdata0 : s'.data0Bytes = s.data0Bytes := by rw [State.data0Bytes, hlatch]; rfl
  have hcounter : s'.counterBytes = s.counterBytes := by rw [State.counterBytes, hlatch]; rfl
  cases i with
  | eclr => exact absurd rfl heclr
  | srst => exact absurd rfl hsrst
  | hfinish => exact absurd rfl hhfinish
  | nop => cases ht; exact ⟨_, rfl, h⟩
  | kbegin => cases ht; exact ⟨_, rfl, hR.of_staging .raw h⟩
  | bbegin => cases ht; exact ⟨_, rfl, hR.of_staging .b32 h⟩
  | kbyte b => cases ht; exact ⟨_, rfl, hR.session 0x11#8 h h (hR.of_push b 0x11#8 h)⟩
  | kword =>
    cases ht
    refine ⟨_, rfl, hR.session 0x12#8 h h ?_⟩
    rw [hkcnt, hdata0]
    split_ifs
    · exact hR.of_fail (hR.of_record .length 0x12#8 h)
    · exact hR.keyPushAll s.data0Bytes 0x12#8 h
  | kend => cases ht; exact ⟨_, rfl, hR.session 0x13#8 h (hR.endSession h) (hR.of_commit h)⟩
  | bchar c =>
    cases ht
    refine ⟨_, rfl, hR.session 0x21#8 h h ?_⟩
    rw [hlatch]
    exact hR.of_char _ c 0x21#8 h
  | bword =>
    cases ht
    refine ⟨_, rfl, hR.session 0x22#8 h h ?_⟩
    rw [hlatch, hdata0]
    exact hR.b32Chars _ 0x22#8 _ h
  | bend =>
    cases ht
    refine ⟨_, rfl, hR.session 0x23#8 h (hR.endSession h) ?_⟩
    rw [hlatch, hnbits, hkcnt]
    split_ifs
    · exact hR.endSession (hR.of_record .fractional 0x23#8 h)
    · exact hR.endSession (hR.of_record .empty 0x23#8 h)
    · exact hR.of_commit h
  | hstart =>
    cases ht
    refine ⟨_, rfl, ?_⟩
    by_cases hkey : s.kvalid = false
    · rw [if_pos hkey, if_pos (hkvalid.trans hkey)]
      exact hR.of_record .sequence 0x30#8 h
    · rw [if_neg hkey, if_neg (show ¬ s'.kvalid = false by rwa [hkvalid])]
      exact hR.of_start h
  | mbyte b => cases ht; exact ⟨_, exec_mbyte b s', hR.offerMessage [b] 0x31#8 h⟩
  | mword => cases ht; exact ⟨_, exec_mword s', by rw [hdata0]; exact hR.offerMessage s.data0Bytes 0x32#8 h⟩
  | mctr => cases ht; exact ⟨_, exec_mctr s', by rw [hcounter]; exact hR.offerMessage s.counterBytes 0x33#8 h⟩

/-- HFINISH answers related states if closing does, and publishing, with the same ERR. -/
theorem hfinish {s s' t : State} (h : R s s')
    (hopen : s.hact = true → s'.err = s.err ∧ R (closeHmac s) (closeHmac s') ∧
      R (publish (outerDigest s.kp s.ictx.final) (closeHmac s)) (publish (outerDigest s'.kp s'.ictx.final) (closeHmac s')))
    (ht : Machine.exec .hfinish s = .next t) : ∃ t', Machine.exec .hfinish s' = .next t' ∧ R t t' := by
  obtain ⟨_, _, _, _, hhact⟩ := hR.tests h
  cases ht
  refine ⟨_, rfl, ?_⟩
  by_cases hact : s.hact = false
  · rw [if_pos hact, if_pos (hhact.trans hact)]
    exact hR.of_record .sequence 0x34#8 h
  · obtain ⟨herr, hclose, hpublish⟩ := hopen (Bool.of_not_eq_false hact)
    rw [if_neg hact, if_neg (show ¬ s'.hact = false by rwa [hhact])]
    by_cases he : s.err = true
    · rw [if_pos he, if_pos (herr.trans he)]
      exact hclose
    · rw [if_neg he, if_neg (show ¬ s'.err = true by rwa [herr])]
      exact hpublish

end KeptRelation

/-! ### Other live registers (R246) -/

/-- The second state is the first with other live registers. -/
def OtherLive (c : Ctrl) (d0 d1 : Word) (s s' : State) : Prop := s' = s.withLive c d0 d1

theorem otherLive_kept (c : Ctrl) (d0 d1 : Word) : KeptRelation (OtherLive c d0 d1) where
  tests := by rintro s _ rfl; exact ⟨rfl, rfl, rfl, rfl, rfl⟩
  of_record code o := by rintro s _ rfl; exact recordError_withLive code o c d0 d1 s
  of_fail := by rintro s _ rfl; rfl
  of_staging ph := by rintro s _ rfl; rfl
  of_push b o := by rintro s _ rfl; exact keyPush_withLive b o c d0 d1 s
  of_char strip ch o := by rintro s _ rfl; exact b32Char_withLive strip ch o c d0 d1 s
  of_commit := by rintro s _ rfl; rfl
  of_start := by rintro s _ rfl; rfl
  of_message bs o := by rintro s _ rfl; exact msgPush_withLive bs o c d0 d1 s

/-- ECLR, SRST and HFINISH are the commands that `KeptRelation.exec` leaves out. -/
theorem eclr_or_srst_or_hfinish (i : Instr) :
    (i ≠ .eclr ∧ i ≠ .srst ∧ i ≠ .hfinish) ∨ i = .eclr ∨ i = .srst ∨ i = .hfinish := by
  cases i <;> simp

/-- Settles O34: with a command pending the operands are the copies, and no operation reads or writes the live registers. -/
theorem liveRegistersDoNotReachTheCommand : Obligations.LiveRegistersDoNotReachTheCommand := by
  intro i s t p c d0 d1 hp ht
  have hlatch : (s.withLive c d0 d1).latched = s.latched := by
    rw [latched_of_pend hp, latched_of_pend (show (s.withLive c d0 d1).pend = some p from hp)]
  have hkept := otherLive_kept c d0 d1
  rcases eclr_or_srst_or_hfinish i with hi | rfl | rfl | rfl
  · obtain ⟨t', ht', rfl⟩ := hkept.exec rfl hlatch ht hi
    exact ht'
  · cases ht; rfl
  · cases ht; rfl
  · obtain ⟨t', ht', rfl⟩ := hkept.hfinish rfl (fun _ => ⟨rfl, rfl, rfl⟩) ht
    exact ht'

/-! ### Other secrets (R244) -/

/-- The second state is the first with another K', inner hash and digest; under `P` the digest is the same. -/
def OtherSecrets (P : Prop) (s s' : State) : Prop :=
  ∃ (kp : List Byte) (x : Sha1Ctx) (d : Hash), s' = s.withSecrets kp x d ∧ (P → d = s.dig)

theorem otherSecrets_refl (P : Prop) (s : State) : OtherSecrets P s s := ⟨s.kp, s.ictx, s.dig, rfl, fun _ => rfl⟩

/-- A commit writes over K' and the inner hash, HSTART and the message commands over the inner hash; none of the operations here
touches the digest. -/
theorem otherSecrets_kept (P : Prop) : KeptRelation (OtherSecrets P) where
  tests := by rintro s _ ⟨kp, x, d, rfl, _⟩; exact ⟨rfl, rfl, rfl, rfl, rfl⟩
  of_record c o := by
    rintro s _ ⟨kp, x, d, rfl, hd⟩
    exact ⟨kp, x, d, recordError_withSecrets c o kp x d s, fun hP => (hd hP).trans (recordError_dig c o s).symm⟩
  of_fail := by rintro s _ ⟨kp, x, d, rfl, hd⟩; exact ⟨kp, x, d, rfl, hd⟩
  of_staging ph := by rintro s _ ⟨kp, x, d, rfl, hd⟩; exact ⟨kp, x, d, rfl, hd⟩
  of_push b o := by
    rintro s _ ⟨kp, x, d, rfl, hd⟩
    obtain ⟨_, _, _, ⟨_, hdig⟩, _⟩ := keyPush_only b o s
    exact ⟨kp, x, d, keyPush_withSecrets b o kp x d s, fun hP => (hd hP).trans hdig.symm⟩
  of_char strip c o := by
    rintro s _ ⟨kp, x, d, rfl, hd⟩
    obtain ⟨_, _, _, ⟨_, hdig⟩, _⟩ := b32Char_only strip c o s
    exact ⟨kp, x, d, b32Char_withSecrets strip c o kp x d s, fun hP => (hd hP).trans hdig.symm⟩
  of_commit := by
    rintro s _ ⟨kp, x, d, rfl, hd⟩
    exact ⟨(commit s).kp, (commit s).ictx, d, rfl, hd⟩
  of_start := by
    rintro s _ ⟨kp, x, d, rfl, hd⟩
    exact ⟨kp, Sha1Ctx.init.absorbAll (innerKey kp), d, rfl, hd⟩
  of_message bs o := by
    rintro s _ ⟨kp, x, d, rfl, hd⟩
    obtain ⟨y, hy⟩ := msgPush_withSecrets bs o kp x d s
    obtain ⟨_, _, _, ⟨_, hdig⟩, _⟩ := msgPush_only bs o s
    exact ⟨kp, y, d, hy, fun hP => (hd hP).trans hdig.symm⟩

/-- Every command answers states that differ in the secrets alone from two that do; the digest goes on to agree under `P` if
no HFINISH runs under `P`. -/
theorem OtherSecrets.after_exec {P : Prop} {i : Instr} {s s' t : State} (h : OtherSecrets P s s')
    (hlatch : s'.latched = s.latched) (hP : P → i ≠ .hfinish) (ht : exec i s = .next t) :
    ∃ t', exec i s' = .next t' ∧ OtherSecrets P t t' := by
  have hkept := otherSecrets_kept P
  rcases eclr_or_srst_or_hfinish i with hi | rfl | rfl | rfl
  · exact hkept.exec h hlatch ht hi
  · obtain ⟨kp, x, d, rfl, hd⟩ := h
    cases ht
    exact ⟨_, rfl, kp, x, d, rfl, hd⟩
  · obtain ⟨kp, x, d, rfl, hd⟩ := h
    cases ht
    exact ⟨softReset s, rfl, otherSecrets_refl P _⟩
  · refine hkept.hfinish h (fun _ => ?_) ht
    obtain ⟨kp, x, d, rfl, hd⟩ := h
    exact ⟨rfl, ⟨kp, (closeHmac s).ictx, d, rfl, hd⟩, kp, (closeHmac s).ictx, _, rfl, fun hp => absurd rfl (hP hp)⟩

/-- The same for a completion. -/
theorem OtherSecrets.after_complete {P : Prop} {p : Pending} {s s' t : State} (h : OtherSecrets P s s')
    (hlatch : s'.latched = s.latched) (hP : P → decode p.word ≠ .command .hfinish) (ht : complete p s = .next t) :
    ∃ t', complete p s' = .next t' ∧ OtherSecrets P t t' := by
  have hretire : ∀ {u u' : State}, OtherSecrets P u u' → OtherSecrets P (retire u) (retire u') := by
    rintro u _ ⟨kp, x, d, rfl, hd⟩
    exact ⟨kp, x, d, rfl, hd⟩
  rcases complete_cases ht with ⟨i, u, hd, hu, rfl⟩ | ⟨⟨w, hd⟩, rfl⟩
  · obtain ⟨u', hu', hrel⟩ := h.after_exec hlatch (fun hp heq => hP hp (heq ▸ hd)) hu
    exact ⟨_, complete_of_command hd hu', hretire hrel⟩
  · exact ⟨_, complete_of_not_command s' (fun i hi => by rw [hd] at hi; cases hi),
      hretire ((otherSecrets_kept P).of_record .illegal _ h)⟩

/-- The same for commands completed one after the other. -/
theorem OtherSecrets.after_completeAll {P : Prop} {ps : List Pending} {s s' t : State} (h : OtherSecrets P s s')
    (hP : P → ∀ p ∈ ps, decode p.word ≠ .command .hfinish) (ht : completeAll ps s = .next t) :
    ∃ t', completeAll ps s' = .next t' ∧ OtherSecrets P t t' := by
  induction ps generalizing s s' with
  | nil => cases ht; exact ⟨s', rfl, h⟩
  | cons p ps ih =>
    obtain ⟨u, hu⟩ := complete_is_next p { s with pend := some p }
    rw [completeAll_cons hu] at ht
    have hpend : OtherSecrets P { s with pend := some p } { s' with pend := some p } := by
      obtain ⟨kp, x, d, rfl, hd⟩ := h
      exact ⟨kp, x, d, rfl, hd⟩
    obtain ⟨u', hu', hrel⟩ := hpend.after_complete rfl (fun hp => hP hp p List.mem_cons_self) hu
    obtain ⟨t', ht', hrel'⟩ := ih hrel (fun hp q hq => hP hp q (List.mem_cons_of_mem _ hq)) ht
    exact ⟨t', (completeAll_cons hu' ps).trans ht', hrel'⟩

/-- The secrets are read at no offset but those of the digest. -/
theorem readReg_withSecrets (off : Nat) (kp : List Byte) (x : Sha1Ctx) (d : Hash) (s : State) :
    readReg off (s.withSecrets kp x d) = readReg off s ∨ (d ≠ s.dig ∧ off ∈ [0x20, 0x24, 0x28, 0x2C, 0x30]) := by
  by_cases hd : d = s.dig
  · left
    rw [hd]
    rfl
  · unfold readReg
    split
    case h_8 | h_9 | h_10 | h_11 | h_12 => exact .inr ⟨hd, by decide⟩
    all_goals exact .inl rfl

/-- Settles O35: the reads by `readReg_withSecrets`, the runs by `OtherSecrets`, the digest agreeing under the two premises of
the last clause. -/
theorem theKeyIsSeenOnlyThroughTheDigest : Obligations.TheKeyIsSeenOnlyThroughTheDigest := by
  refine fun s kp ictx dig => ⟨fun off => readReg_withSecrets off kp ictx dig s, fun ps t ht => ?_⟩
  let P : Prop := dig = s.dig ∧ ∀ p ∈ ps, decode p.word ≠ .command .hfinish
  have hstart : OtherSecrets P s (s.withSecrets kp ictx dig) := ⟨kp, ictx, dig, rfl, And.left⟩
  obtain ⟨t', ht', kp', ictx', dig', rfl, hdig⟩ := hstart.after_completeAll And.right ht
  exact ⟨kp', ictx', dig', ht', fun hagree hno => hdig ⟨hagree, hno⟩⟩

end Sys2Proof.Machine
end

section
/-! PROOFS. The effect of a command that records an error (60_exceptions R215, R216), with ERR = 1 already too (R219). -/

namespace Sys2Proof.Machine

/-! ### The character that fails -/

/-- `(ACC << 5) | v` modulo a power of two that the accumulator holds (41_base32 R123). -/
theorem shiftIn_toNat_mod (acc : BitVec 12) (v : BitVec 5) {k : Nat} (hk : k ≤ 12) :
    ((acc <<< 5) ||| v.setWidth 12).toNat % 2 ^ k = (acc.toNat * 32 + v.toNat) % 2 ^ k := by
  have hv : v.toNat < 2 ^ 5 := v.isLt
  have hacc : (acc <<< 5).toNat = (acc.toNat % 128) <<< 5 := by
    rw [BitVec.toNat_shiftLeft, Nat.shiftLeft_eq, Nat.shiftLeft_eq]; omega
  have hall : ((acc <<< 5) ||| v.setWidth 12).toNat = (acc.toNat * 32 + v.toNat) % 2 ^ 12 := by
    rw [BitVec.toNat_or, hacc, BitVec.toNat_setWidth, Nat.mod_eq_of_lt (show v.toNat < 2 ^ 12 by omega),
      ← Nat.shiftLeft_add_eq_or_of_lt hv, Nat.shiftLeft_eq]
    omega
  rw [hall, Nat.mod_mod_of_dvd _ (Nat.pow_dvd_pow 2 hk)]

/-- The character `c` failed the session in `u`, and `t` is the state after it: a BAD one with nothing staged, or one whose
byte met the key limit, its value having left the accumulator as R123 orders it (R215, R216). -/
def CharFailed (strip : Bool) (c : Byte) (u t : State) : Prop :=
  t.ksph = .failed ∧
  ((t.errCode = .invalidChar ∧ charClass strip c = .bad ∧ SameStagedBytes u t ∧ SameBits u t) ∨
   (t.errCode = .length ∧ ∃ v, charClass strip c = .value v ∧ u.kcnt = Config.maxKeyBytes ∧ SameStagedBytes u t ∧
      u.nbits = t.nbits + 3 ∧ t.acc.toNat = (u.acc.toNat * 32 + v.toNat) % 2 ^ t.nbits))

/-- A push that records an error met the limit (42_key R142). -/
theorem keyPush_err {b o : Byte} {s : State} (hs : s.err = false) (ht : (keyPush b o s).err = true) :
    s.kcnt = Config.maxKeyBytes ∧ keyPush b o s = { recordError .length o s with ksph := .failed } := by
  rcases keyPush_cases b o s with hfull | ⟨_, _, h⟩ | ⟨_, h⟩ | ⟨_, _, h⟩
  · exact hfull
  all_goals
    rw [h] at ht
    exact absurd (hs.symm.trans ht) (by decide)

/-- A push that records no error keeps the phase. -/
theorem keyPush_no_err {b o : Byte} {s : State} (ht : (keyPush b o s).err = false) : (keyPush b o s).ksph = s.ksph := by
  rcases keyPush_cases b o s with ⟨_, h⟩ | ⟨_, _, h⟩ | ⟨_, h⟩ | ⟨_, _, h⟩ <;> rw [h] at ht ⊢
  exact absurd (ht.symm.trans (recordError_err .length o s)) (by decide)

/-- A value of a stream that already holds a byte is shifted in and the byte is taken out (41_base32 R123). -/
def valueShiftedIn (v : BitVec 5) (s : State) : State :=
  { s with
    nbits := s.nbits - 3
    acc := ((s.acc <<< 5) ||| v.setWidth 12) &&& BitVec.ofNat 12 (2 ^ (s.nbits - 3) - 1) }

/-- A value either lengthens the stream or pushes the byte it takes out (R123). -/
theorem b32Value_eq (v : BitVec 5) (o : Byte) (s : State) :
    (s.nbits < 3 ∧ b32Value v o s = { s with acc := (s.acc <<< 5) ||| v.setWidth 12, nbits := s.nbits + 5 }) ∨
    (3 ≤ s.nbits ∧ ∃ b, b32Value v o s = keyPush b o (valueShiftedIn v s)) :=
  (b32Value_cases v o s).imp_right fun ⟨hge, h⟩ => ⟨hge, _, h⟩

/-- What is left in the accumulator is the stream modulo the bits left (R123). -/
theorem valueShiftedIn_acc (v : BitVec 5) {s : State} (hn : s.nbits ≤ 7) :
    (valueShiftedIn v s).acc.toNat = (s.acc.toNat * 32 + v.toNat) % 2 ^ (s.nbits - 3) := by
  show (((s.acc <<< 5) ||| v.setWidth 12) &&& BitVec.ofNat 12 (2 ^ (s.nbits - 3) - 1)).toNat = _
  rw [newestBits_toNat _ (by omega), shiftIn_toNat_mod _ _ (by omega)]

/-- A character that records an error fails as R215 lists. -/
theorem b32Char_err {strip : Bool} {c o : Byte} {u : State} (hn : u.nbits ≤ 7) (hu : u.err = false)
    (ht : (b32Char strip c o u).err = true) : CharFailed strip c u (b32Char strip c o u) := by
  rcases b32Char_cases strip c o u with ⟨_, h⟩ | ⟨hbad, h⟩ | ⟨v, hvalue, h⟩ <;> rw [h] at ht ⊢
  · exact absurd (hu.symm.trans ht) (by decide)
  · obtain ⟨_, hfailed, hbytes, hbits, _⟩ := failSession_spec .invalidChar o u
    exact ⟨hfailed, .inl ⟨(recordError_first hu _ _).1, hbad, hbytes, hbits⟩⟩
  · rcases b32Value_eq v o u with ⟨_, h⟩ | ⟨hge, b, h⟩ <;> rw [h] at ht ⊢
    · exact absurd (hu.symm.trans ht) (by decide)
    · obtain ⟨hmax, h⟩ := keyPush_err (s := valueShiftedIn v u) hu ht
      rw [h]
      obtain ⟨_, hfailed, hbytes, ⟨hacc, hnbits⟩, _⟩ := failSession_spec .length o (valueShiftedIn v u)
      obtain ⟨hcode, _⟩ := recordError_first (s := valueShiftedIn v u) hu .length o
      refine ⟨hfailed, .inr ⟨hcode, v, hvalue, hmax, hbytes, ?_, ?_⟩⟩
      · rw [hnbits]
        show u.nbits = u.nbits - 3 + 3
        omega
      · rw [hacc, hnbits]
        exact valueShiftedIn_acc v hn

/-- A character that records no error keeps the phase, and at most seven bits. -/
theorem b32Char_no_err {strip : Bool} {c o : Byte} {u : State} (hn : u.nbits ≤ 7)
    (ht : (b32Char strip c o u).err = false) : (b32Char strip c o u).ksph = u.ksph ∧ (b32Char strip c o u).nbits ≤ 7 := by
  rcases b32Char_cases strip c o u with ⟨_, h⟩ | ⟨_, h⟩ | ⟨v, _, h⟩ <;> rw [h] at ht ⊢
  · exact ⟨rfl, hn⟩
  · exact absurd (ht.symm.trans (recordError_err .invalidChar o u)) (by decide)
  · rcases b32Value_eq v o u with ⟨hlt, h⟩ | ⟨_, b, h⟩ <;> rw [h] at ht ⊢
    · exact ⟨rfl, show u.nbits + 5 ≤ 7 by omega⟩
    · obtain ⟨_, hnbits⟩ := keyPush_sameBits b o (valueShiftedIn v u)
      exact ⟨keyPush_no_err ht, by rw [hnbits]; show u.nbits - 3 ≤ 7; omega⟩

/-- Characters that record an error: one of them failed, reached with no error by those before it (R216, R127). -/
theorem b32Chars_err {strip : Bool} {o : Byte} {cs : List Byte} {s : State} (hn : s.nbits ≤ 7) (hs : s.err = false)
    (hph : s.ksph = .b32) (ht : (b32Chars strip o cs s).err = true) :
    ∃ k c, cs[k]? = some c ∧ (b32Chars strip o (cs.take k) s).err = false ∧ (b32Chars strip o (cs.take k) s).ksph = .b32 ∧
      CharFailed strip c (b32Chars strip o (cs.take k) s) (b32Chars strip o cs s) := by
  induction cs generalizing s with
  | nil => exact absurd (hs.symm.trans ht) (by decide)
  | cons c cs ih =>
    rw [b32Chars_cons] at ht ⊢
    have hnext : (b32WordChar strip c o s).err = false →
        (b32WordChar strip c o s).ksph = .b32 ∧ (b32WordChar strip c o s).nbits ≤ 7 := by
      intro he
      unfold b32WordChar at he ⊢
      split_ifs at he ⊢
      · exact ⟨hph, hn⟩
      · obtain ⟨hksph, hle⟩ := b32Char_no_err hn he
        exact ⟨hksph.trans hph, hle⟩
    rcases Bool.eq_false_or_eq_true (b32WordChar strip c o s).err with he | he
    · have hchar : b32WordChar strip c o s = b32Char strip c o s := by
        unfold b32WordChar at he ⊢
        split_ifs at he ⊢
        · exact absurd (hs.symm.trans he) (by decide)
        · rfl
      rw [hchar] at he ⊢
      have hfailed := b32Char_err hn hs he
      rw [b32Chars_of_failed hfailed.1]
      exact ⟨0, c, rfl, hs, hph, hfailed⟩
    · obtain ⟨hph', hn'⟩ := hnext he
      obtain ⟨k, c', hc', herr, hksph, hfailed⟩ := ih hn' he hph' ht
      refine ⟨k + 1, c', hc', ?_, ?_, ?_⟩ <;> rw [List.take_succ_cons, b32Chars_cons]
      · exact herr
      · exact hksph
      · exact hfailed

/-! ### The command that records an error -/

/-- Pushes within the limit record none. -/
theorem keyPushAll_err_of_fits {bs : List Byte} {o : Byte} {s : State} (h : s.kcnt + bs.length ≤ Config.maxKeyBytes) :
    (keyPushAll bs o s).err = s.err := (keyPushAll_within_limit bs o s h).1.1

/-- Everything a command can do that raises ERR from 0 (R215), by the error it records. -/
theorem exec_err_cases {i : Instr} {s t : State} (h : exec i s = .next t) (hn : s.nbits ≤ 7) (hs : s.err = false)
    (ht : t.err = true) :
    (∃ o, t = recordError .sequence o s) ∨
    (∃ u c, ReachesChar i s.latched s u c ∧ CharFailed s.latched.ctrl.strip c u t ∧ OnlySessionAndError s t) ∨
    (∃ code o, (code = .fractional ∨ code = .empty) ∧ t = endSession (recordError code o s)) ∨
    (((∃ b, i = .kbyte b) ∨ i = .kword) ∧ ∃ o, t = { recordError .length o s with ksph := .failed }) ∨
    (((∃ b, i = .mbyte b) ∨ i = .mword ∨ i = .mctr) ∧ ∃ o, t = closeHmac (recordError .length o s)) := by
  have hno : ∀ {u : State}, u.err = s.err → u.err = true → False := fun he hu => by
    rw [he, hs] at hu; cases hu
  have hmessage : ∀ (bs : List Byte) (o : Byte), (offerMessage bs o s).err = true →
      offerMessage bs o s = recordError .sequence o s ∨ offerMessage bs o s = closeHmac (recordError .length o s) := by
    intro bs o he
    rcases offerMessage_cases bs o s with ⟨_, heq⟩ | ⟨_, _, heq⟩ | ⟨_, _, heq⟩
    · exact .inl heq
    · exact .inr heq
    · rw [heq] at he; exact (hno rfl he).elim
  cases i with
  | nop | kbegin | bbegin => cases h; exact (hno rfl ht).elim
  | srst | eclr => cases h; cases ht
  | kbyte b =>
    rcases exec_kbyte_cases h with ⟨_, rfl⟩ | ⟨_, _, rfl⟩ | ⟨_, rfl⟩
    · exact (hno rfl ht).elim
    · exact .inl ⟨_, rfl⟩
    · exact .inr (.inr (.inr (.inl ⟨.inl ⟨b, rfl⟩, _, (keyPush_err hs ht).2⟩)))
  | kword =>
    rcases exec_kword_cases h with ⟨_, rfl⟩ | ⟨_, _, rfl⟩ | ⟨_, _, rfl⟩ | ⟨_, hfits, rfl⟩
    · exact (hno rfl ht).elim
    · exact .inl ⟨_, rfl⟩
    · exact .inr (.inr (.inr (.inl ⟨.inr rfl, _, rfl⟩)))
    · exact (hno (keyPushAll_err_of_fits (bs := s.data0Bytes) hfits) ht).elim
  | kend =>
    rcases exec_kend_cases h with ⟨_, rfl⟩ | ⟨_, _, rfl⟩ | ⟨_, rfl⟩
    · exact (hno rfl ht).elim
    · exact .inl ⟨_, rfl⟩
    · exact (hno rfl ht).elim
  | bchar c =>
    rcases exec_bchar_cases h with ⟨_, rfl⟩ | ⟨_, _, rfl⟩ | ⟨hb32, rfl⟩
    · exact (hno rfl ht).elim
    · exact .inl ⟨_, rfl⟩
    · exact .inr (.inl ⟨s, c, ⟨hs, hb32, .inl ⟨rfl, rfl⟩⟩, b32Char_err hn hs ht, b32Char_only _ c 0x21#8 s⟩)
  | bword =>
    rcases exec_bword_cases h with ⟨_, rfl⟩ | ⟨_, _, rfl⟩ | ⟨hb32, rfl⟩
    · exact (hno rfl ht).elim
    · exact .inl ⟨_, rfl⟩
    · obtain ⟨k, c, hc, herr, hksph, hfailed⟩ := b32Chars_err hn hs hb32 ht
      exact .inr (.inl ⟨_, c, ⟨herr, hksph, .inr ⟨rfl, k, hc, rfl⟩⟩, hfailed, b32Chars_only _ 0x22#8 s.data0Bytes s⟩)
  | bend =>
    rcases exec_bend_cases h with ⟨_, rfl⟩ | ⟨_, _, rfl⟩ | ⟨_, _, rfl⟩ | ⟨_, _, _, rfl⟩ | ⟨_, _, _, rfl⟩
    · exact (hno rfl ht).elim
    · exact .inl ⟨_, rfl⟩
    · exact .inr (.inr (.inl ⟨.fractional, _, .inl rfl, rfl⟩))
    · exact .inr (.inr (.inl ⟨.empty, _, .inr rfl, rfl⟩))
    · exact (hno rfl ht).elim
  | hstart =>
    rcases exec_hstart_cases h with ⟨_, rfl⟩ | ⟨_, rfl⟩
    · exact .inl ⟨_, rfl⟩
    · exact (hno rfl ht).elim
  | mbyte b =>
    cases h
    rcases hmessage [b] 0x31#8 ht with heq | heq
    · exact .inl ⟨_, heq⟩
    · exact .inr (.inr (.inr (.inr ⟨.inl ⟨b, rfl⟩, _, heq⟩)))
  | mword =>
    cases h
    rcases hmessage s.data0Bytes 0x32#8 ht with heq | heq
    · exact .inl ⟨_, heq⟩
    · exact .inr (.inr (.inr (.inr ⟨.inr (.inl rfl), _, heq⟩)))
  | mctr =>
    cases h
    rcases hmessage s.counterBytes 0x33#8 ht with heq | heq
    · exact .inl ⟨_, heq⟩
    · exact .inr (.inr (.inr (.inr ⟨.inr (.inr rfl), _, heq⟩)))
  | hfinish =>
    rcases exec_hfinish_cases h with ⟨_, rfl⟩ | ⟨_, _, rfl⟩ | ⟨_, _, rfl⟩
    · exact .inl ⟨_, rfl⟩
    · exact (hno rfl ht).elim
    · exact (hno rfl ht).elim

/-! ### ERR being 1 already -/

/-- The second state is the first with an error on record. -/
def ErrorOnRecord (c : ErrCode) (o : Byte) (s s' : State) : Prop := s' = s.withError true c o

theorem errorOnRecord_kept (c : ErrCode) (o : Byte) : KeptRelation (ErrorOnRecord c o) where
  tests := by rintro s _ rfl; exact ⟨rfl, rfl, rfl, rfl, rfl⟩
  of_record code opc := by rintro s _ rfl; exact recordError_withError code c opc o s
  of_fail := by rintro s _ rfl; rfl
  of_staging ph := by rintro s _ rfl; rfl
  of_push b opc := by rintro s _ rfl; exact keyPush_withError b opc c o s
  of_char strip ch opc := by rintro s _ rfl; exact b32Char_withError strip ch opc c o s
  of_commit := by rintro s _ rfl; rfl
  of_start := by rintro s _ rfl; rfl
  of_message bs opc := by rintro s _ rfl; exact msgPush_withError bs opc c o s

/-- A command that ends with ERR = 1 from ERR = 0 has the same effect with an error already on record, which stays (R219). -/
theorem exec_withError {i : Instr} {s t : State} (c : ErrCode) (o : Byte) (hs : s.err = false) (h : exec i s = .next t)
    (ht : t.err = true) : exec i (s.withError true c o) = .next (t.withError true c o) := by
  have hkept := errorOnRecord_kept c o
  rcases eclr_or_srst_or_hfinish i with hi | rfl | rfl | rfl
  · obtain ⟨t', ht', rfl⟩ := hkept.exec (s' := s.withError true c o) rfl rfl h hi
    exact ht'
  · cases h; cases ht
  · cases h; cases ht
  · rcases exec_hfinish_cases h with ⟨hact, _⟩ | ⟨_, herr, _⟩ | ⟨_, _, rfl⟩
    · obtain ⟨t', ht', rfl⟩ := hkept.hfinish (s' := s.withError true c o) rfl
        (fun hopen => absurd (hact.symm.trans hopen) (by decide)) h
      exact ht'
    · exact absurd (hs.symm.trans herr) (by decide)
    · exact absurd (hs.symm.trans ht) (by decide)

/-- Settles O32: each case of `exec_err_cases` has the one code whose row of R215 it is; the last clause is `exec_withError`. -/
theorem errorsHaveTheListedEffect : Obligations.ErrorsHaveTheListedEffect := by
  refine ⟨fun i s t p hp hn h hs ht => ?listed, fun i s t hs h ht => ?again⟩
  case again =>
    have hself : s = (s.withError false .none 0x00#8).withError true s.errCode s.errOpc := by cases s; cases hs; rfl
    rw [hself]
    exact exec_withError s.errCode s.errOpc rfl h ht
  case listed =>
    rw [← latched_of_pend hp]
    rcases exec_err_cases h hn hs ht with ⟨o, rfl⟩ | ⟨u, c, hreach, ⟨hfailed, hchar⟩, honly⟩ | ⟨code, o, hcode, rfl⟩ |
      ⟨hi, o, rfl⟩ | ⟨hi, o, rfl⟩
    · obtain ⟨hcode, _⟩ := recordError_first hs .sequence o
      obtain ⟨hconfig, hkey, hhmac, hdigest, hworld⟩ := recordError_only .sequence o s
      exact ⟨hconfig, hworld, hkey, hdigest, fun _ => ⟨recordError_sameSession .sequence o s, hhmac⟩, by simp [hcode],
        by simp [hcode], by simp [hcode], by simp [hcode]⟩
    · obtain ⟨hconfig, hkey, hhmac, hdigest, hworld⟩ := honly
      rcases hchar with ⟨hcode, hbad, hbytes, hbits⟩ | ⟨hcode, v, hvalue, hmax, hbytes, hnbits, hacc⟩
      · exact ⟨hconfig, hworld, hkey, hdigest, by simp [hcode],
          fun _ => ⟨hhmac, hfailed, u, c, hreach, hbad, hbytes, hbits⟩, by simp [hcode], by simp [hcode], by simp [hcode]⟩
      · exact ⟨hconfig, hworld, hkey, hdigest, by simp [hcode], by simp [hcode], by simp [hcode],
          fun _ => .inl ⟨hhmac, hfailed, .inr ⟨u, c, v, hreach, hvalue, hmax, hbytes, hnbits, hacc⟩⟩, by simp [hcode]⟩
    · obtain ⟨hcode', _⟩ := recordError_first hs code o
      obtain ⟨_, hclosed, hconfig, hkey, hhmac, hdigest, hworld⟩ := endSession_recordError_spec code o s
      rw [endSession_errCode, hcode']
      refine ⟨hconfig, hworld, hkey, hdigest, ?_, ?_, fun _ => ⟨hhmac, hclosed⟩, ?_, ?_⟩ <;>
        rcases hcode with rfl | rfl <;> simp
    · obtain ⟨hcode, _⟩ := recordError_first hs .length o
      obtain ⟨_, hfailed, hbytes, hbits, hconfig, hkey, hhmac, hdigest, hworld⟩ := failSession_spec .length o s
      exact ⟨hconfig, hworld, hkey, hdigest, by simp [hcode], by simp [hcode], by simp [hcode],
        fun _ => .inl ⟨hhmac, hfailed, .inl ⟨hi, hbytes, hbits⟩⟩, by simp [hcode]⟩
    · obtain ⟨hcode, _⟩ := recordError_first hs .length o
      obtain ⟨hconfig, hkey, _, hdigest, hworld⟩ := recordError_only .length o s
      exact ⟨hconfig, hworld, hkey, hdigest, by simp [hcode], by simp [hcode], by simp [hcode],
        fun _ => .inr ⟨hi, recordError_sameSession .length o s, rfl, recordError_mcnt .length o s⟩, by simp [hcode]⟩

end Sys2Proof.Machine
end
